-- ==== Sys2Proof/Word.lean ====
section
/-! DEFINITION. The word types of the CHIP-8 core: what the spec treats as bits (00_scope.md R4, 5.1). -/

namespace Sys2Proof

/-- An 8-bit value: a general register, a timer, a memory byte (00_scope.md R4, XLEN). -/
abbrev Byte := BitVec 8

/-- A 16-bit value: an instruction word, the program counter, a call-stack entry (00_scope.md R4, ILEN and PC_WIDTH). -/
abbrev Word := BitVec 16

/-- A 12-bit value: the address register I and the field `nnn` (00_scope.md R4, I_WIDTH). -/
abbrev Addr12 := BitVec 12

/-- A 4-bit field: a register index, a key index, a glyph digit, a sprite height (30_encoding.md R61). -/
abbrev Nibble := BitVec 4

/-- The framebuffer, 2048 one-bit cells in row-major order (10_state.md R19; log 18): row `ty` holds the 64 cells
FB[ty*64] to FB[ty*64 + 63], its bit `tx` being the pixel at column `tx`. -/
abbrev Framebuffer := Vector (BitVec 64) 32

end Sys2Proof
end

