-- ==== Sys2Proof/Syntax.lean ====
section
/-! DEFINITION. The instructions: one constructor per row of spec/opcode_table.json (30_encoding.md R66), in the table's order. -/

namespace Sys2Proof

/-- One instruction with its operand fields (30_encoding.md R61, R62, R66). -/
inductive Instr where
  /-- Row 1, `00E0` CLS. -/
  | cls
  /-- Row 2, `00EE` RET. -/
  | ret
  /-- Row 3, `1nnn` JP nnn. -/
  | jp (nnn : Addr12)
  /-- Row 4, `2nnn` CALL nnn. -/
  | call (nnn : Addr12)
  /-- Row 5, `3xkk` SE Vx, kk. -/
  | seImm (x : Nibble) (kk : Byte)
  /-- Row 6, `4xkk` SNE Vx, kk. -/
  | sneImm (x : Nibble) (kk : Byte)
  /-- Row 7, `5xy0` SE Vx, Vy. -/
  | seReg (x y : Nibble)
  /-- Row 8, `6xkk` LD Vx, kk. -/
  | ldImm (x : Nibble) (kk : Byte)
  /-- Row 9, `7xkk` ADD Vx, kk. -/
  | addImm (x : Nibble) (kk : Byte)
  /-- Row 10, `8xy0` LD Vx, Vy. -/
  | ldReg (x y : Nibble)
  /-- Row 11, `8xy1` OR Vx, Vy. -/
  | orReg (x y : Nibble)
  /-- Row 12, `8xy2` AND Vx, Vy. -/
  | andReg (x y : Nibble)
  /-- Row 13, `8xy3` XOR Vx, Vy. -/
  | xorReg (x y : Nibble)
  /-- Row 14, `8xy4` ADD Vx, Vy. -/
  | addReg (x y : Nibble)
  /-- Row 15, `8xy5` SUB Vx, Vy. -/
  | subReg (x y : Nibble)
  /-- Row 16, `8xy6` SHR Vx; the field y is decoded and ignored. -/
  | shr (x y : Nibble)
  /-- Row 17, `8xy7` SUBN Vx, Vy. -/
  | subnReg (x y : Nibble)
  /-- Row 18, `8xyE` SHL Vx; the field y is decoded and ignored. -/
  | shl (x y : Nibble)
  /-- Row 19, `9xy0` SNE Vx, Vy. -/
  | sneReg (x y : Nibble)
  /-- Row 20, `Annn` LD I, nnn. -/
  | ldI (nnn : Addr12)
  /-- Row 21, `Bnnn` JP V0, nnn. -/
  | jpV0 (nnn : Addr12)
  /-- Row 22, `Cxkk` RND Vx, kk. -/
  | rnd (x : Nibble) (kk : Byte)
  /-- Row 23, `Dxyn` DRW Vx, Vy, n. -/
  | drw (x y n : Nibble)
  /-- Row 24, `Ex9E` SKP Vx. -/
  | skp (x : Nibble)
  /-- Row 25, `ExA1` SKNP Vx. -/
  | sknp (x : Nibble)
  /-- Row 26, `Fx07` LD Vx, DT. -/
  | ldVxDt (x : Nibble)
  /-- Row 27, `Fx0A` LD Vx, K. -/
  | ldVxKey (x : Nibble)
  /-- Row 28, `Fx15` LD DT, Vx. -/
  | ldDtVx (x : Nibble)
  /-- Row 29, `Fx18` LD ST, Vx. -/
  | ldStVx (x : Nibble)
  /-- Row 30, `Fx1E` ADD I, Vx. -/
  | addI (x : Nibble)
  /-- Row 31, `Fx29` LD F, Vx. -/
  | ldFont (x : Nibble)
  /-- Row 32, `Fx33` LD B, Vx. -/
  | ldBcd (x : Nibble)
  /-- Row 33, `Fx55` LD [I], Vx. -/
  | stRegs (x : Nibble)
  /-- Row 34, `Fx65` LD Vx, [I]. -/
  | ldRegs (x : Nibble)
  /-- Row 35, anything else: the unknown-opcode event, carrying the whole word (40_cycle.md R85). -/
  | unknown (w : Word)
  deriving DecidableEq, Repr

end Sys2Proof
end

