-- ==== Sys2Proof/Decode.lean ====
section
/-! DEFINITION. The decoder, total on every word and on any bytes, and after it the encoder (30_encoding.md R60 to R66). -/

namespace Sys2Proof

/-- `op`, bits 15:12 (30_encoding.md R61). -/
def fieldOp (w : Word) : Nibble := w.extractLsb' 12 4

/-- `x`, bits 11:8 (30_encoding.md R61). -/
def fieldX (w : Word) : Nibble := w.extractLsb' 8 4

/-- `y`, bits 7:4 (30_encoding.md R61). -/
def fieldY (w : Word) : Nibble := w.extractLsb' 4 4

/-- `n`, bits 3:0 (30_encoding.md R61). -/
def fieldN (w : Word) : Nibble := w.extractLsb' 0 4

/-- `kk`, bits 7:0 (30_encoding.md R61). -/
def fieldKK (w : Word) : Byte := w.extractLsb' 0 8

/-- `nnn`, bits 11:0 (30_encoding.md R61). -/
def fieldNNN (w : Word) : Addr12 := w.extractLsb' 0 12

/-- op = 0: the whole word must be 0x00E0 or 0x00EE (30_encoding.md R63, R64). -/
def decodeOp0 (w : Word) : Instr :=
  match w.toNat with
  | 0x00E0 => .cls
  | 0x00EE => .ret
  | _ => .unknown w

/-- op = 5: the low nibble must be 0 (30_encoding.md R63, R64). -/
def decodeOp5 (w : Word) : Instr :=
  match (fieldN w).toNat with
  | 0x0 => .seReg (fieldX w) (fieldY w)
  | _ => .unknown w

/-- op = 8: the secondary opcode is `n` (30_encoding.md R63, R66 rows 10 to 18). -/
def decodeOp8 (w : Word) : Instr :=
  match (fieldN w).toNat with
  | 0x0 => .ldReg (fieldX w) (fieldY w)
  | 0x1 => .orReg (fieldX w) (fieldY w)
  | 0x2 => .andReg (fieldX w) (fieldY w)
  | 0x3 => .xorReg (fieldX w) (fieldY w)
  | 0x4 => .addReg (fieldX w) (fieldY w)
  | 0x5 => .subReg (fieldX w) (fieldY w)
  | 0x6 => .shr (fieldX w) (fieldY w)
  | 0x7 => .subnReg (fieldX w) (fieldY w)
  | 0xE => .shl (fieldX w) (fieldY w)
  | _ => .unknown w

/-- op = 9: the low nibble must be 0 (30_encoding.md R63, R64). -/
def decodeOp9 (w : Word) : Instr :=
  match (fieldN w).toNat with
  | 0x0 => .sneReg (fieldX w) (fieldY w)
  | _ => .unknown w

/-- op = E: the secondary opcode is `kk` (30_encoding.md R63, R66 rows 24 and 25). -/
def decodeOpE (w : Word) : Instr :=
  match (fieldKK w).toNat with
  | 0x9E => .skp (fieldX w)
  | 0xA1 => .sknp (fieldX w)
  | _ => .unknown w

/-- op = F: the secondary opcode is `kk` (30_encoding.md R63, R66 rows 26 to 34). -/
def decodeOpF (w : Word) : Instr :=
  match (fieldKK w).toNat with
  | 0x07 => .ldVxDt (fieldX w)
  | 0x0A => .ldVxKey (fieldX w)
  | 0x15 => .ldDtVx (fieldX w)
  | 0x18 => .ldStVx (fieldX w)
  | 0x1E => .addI (fieldX w)
  | 0x29 => .ldFont (fieldX w)
  | 0x33 => .ldBcd (fieldX w)
  | 0x55 => .stRegs (fieldX w)
  | 0x65 => .ldRegs (fieldX w)
  | _ => .unknown w

/-- The instruction a word selects: primary dispatch on `op`, a function of the word alone (30_encoding.md R63). The last arm
cannot be reached, `op` having four bits. -/
def decode (w : Word) : Instr :=
  match (fieldOp w).toNat with
  | 0x0 => decodeOp0 w
  | 0x1 => .jp (fieldNNN w)
  | 0x2 => .call (fieldNNN w)
  | 0x3 => .seImm (fieldX w) (fieldKK w)
  | 0x4 => .sneImm (fieldX w) (fieldKK w)
  | 0x5 => decodeOp5 w
  | 0x6 => .ldImm (fieldX w) (fieldKK w)
  | 0x7 => .addImm (fieldX w) (fieldKK w)
  | 0x8 => decodeOp8 w
  | 0x9 => decodeOp9 w
  | 0xA => .ldI (fieldNNN w)
  | 0xB => .jpV0 (fieldNNN w)
  | 0xC => .rnd (fieldX w) (fieldKK w)
  | 0xD => .drw (fieldX w) (fieldY w) (fieldN w)
  | 0xE => decodeOpE w
  | 0xF => decodeOpF w
  | _ => .unknown w

/-- The word whose byte at the lower address is `hi` (20_memory.md R41: big-endian). -/
def wordOfBytes (hi lo : Byte) : Word := (hi ++ lo).cast rfl

/-- Bits 15:8 of a word, the byte at the lower address (20_memory.md R41, 30_encoding.md R60). -/
def highByte (w : Word) : Byte := w.extractLsb' 8 8

/-- Bits 7:0 of a word, the byte at the higher address (20_memory.md R41, 30_encoding.md R60). -/
def lowByte (w : Word) : Byte := w.extractLsb' 0 8

/-- Why a byte sequence has no instruction: every word has a meaning (30_encoding.md R63), so the only reason is length. -/
inductive DecodeError where
  /-- Fewer than the two bytes every instruction has (30_encoding.md R60). -/
  | truncated
  deriving DecidableEq, Repr

/-- The instruction at the front of a byte sequence and the bytes after it (30_encoding.md R60, 20_memory.md R41). -/
def decodeBytes : List Byte → Except DecodeError (Instr × List Byte)
  | hi :: lo :: rest => .ok (decode (wordOfBytes hi lo), rest)
  | _ => .error .truncated

/-- The word of an instruction of `nbits` bits numbered as the opcode table numbers them, higher bits 0. -/
def tableWord (nbits w : Nat) : Word := BitVec.ofNat 16 (w % 2 ^ nbits)

/-- The instruction the decoder reads from the two bytes of a table word, laid out as memory holds them. -/
def decodeTableWord (nbits w : Nat) : Option Instr :=
  match decodeBytes [highByte (tableWord nbits w), lowByte (tableWord nbits w)] with
  | .ok (i, _) => some i
  | .error _ => none

/-- Format NNN: op, nnn (30_encoding.md R61). -/
def packNNN (op : Nibble) (nnn : Addr12) : Word := (op ++ nnn).cast rfl

/-- Format XKK, and XF with `kk` as secondary opcode: op, x, kk (30_encoding.md R61). -/
def packXKK (op x : Nibble) (kk : Byte) : Word := (op ++ x ++ kk).cast rfl

/-- Formats XYN and XYN-D: op, x, y, n (30_encoding.md R61). -/
def packXYN (op x y n : Nibble) : Word := (op ++ x ++ y ++ n).cast rfl

/-- The word of an instruction, from the patterns of 30_encoding.md R66. -/
def encode : Instr → Word
  | .cls => 0x00E0
  | .ret => 0x00EE
  | .jp nnn => packNNN 0x1 nnn
  | .call nnn => packNNN 0x2 nnn
  | .seImm x kk => packXKK 0x3 x kk
  | .sneImm x kk => packXKK 0x4 x kk
  | .seReg x y => packXYN 0x5 x y 0x0
  | .ldImm x kk => packXKK 0x6 x kk
  | .addImm x kk => packXKK 0x7 x kk
  | .ldReg x y => packXYN 0x8 x y 0x0
  | .orReg x y => packXYN 0x8 x y 0x1
  | .andReg x y => packXYN 0x8 x y 0x2
  | .xorReg x y => packXYN 0x8 x y 0x3
  | .addReg x y => packXYN 0x8 x y 0x4
  | .subReg x y => packXYN 0x8 x y 0x5
  | .shr x y => packXYN 0x8 x y 0x6
  | .subnReg x y => packXYN 0x8 x y 0x7
  | .shl x y => packXYN 0x8 x y 0xE
  | .sneReg x y => packXYN 0x9 x y 0x0
  | .ldI nnn => packNNN 0xA nnn
  | .jpV0 nnn => packNNN 0xB nnn
  | .rnd x kk => packXKK 0xC x kk
  | .drw x y n => packXYN 0xD x y n
  | .skp x => packXKK 0xE x 0x9E
  | .sknp x => packXKK 0xE x 0xA1
  | .ldVxDt x => packXKK 0xF x 0x07
  | .ldVxKey x => packXKK 0xF x 0x0A
  | .ldDtVx x => packXKK 0xF x 0x15
  | .ldStVx x => packXKK 0xF x 0x18
  | .addI x => packXKK 0xF x 0x1E
  | .ldFont x => packXKK 0xF x 0x29
  | .ldBcd x => packXKK 0xF x 0x33
  | .stRegs x => packXKK 0xF x 0x55
  | .ldRegs x => packXKK 0xF x 0x65
  | .unknown w => w

/-- The two bytes of an instruction as memory holds them, the lower address first (30_encoding.md R60). -/
def encodeBytes (i : Instr) : List Byte := [highByte (encode i), lowByte (encode i)]

end Sys2Proof
end

