-- ==== Sys2Proof/Config.lean ====
section
/-! DEFINITION. What is fixed for this hardware (00_scope.md R4) and the one value the spec leaves free (R5, `rnd`). -/

namespace Sys2Proof

/-- MEM_SIZE: valid byte addresses are 0x000 to 0xFFF (00_scope.md R4, 20_memory.md R40). -/
abbrev Config.memSize : Nat := 4096

/-- FONT_BASE: the address of the first byte of the built-in glyphs (00_scope.md R4). -/
abbrev Config.fontBase : Nat := 0x000

/-- GLYPH_BYTES: bytes per glyph (00_scope.md R4). -/
abbrev Config.glyphBytes : Nat := 5

/-- ROM_BASE: where the ROM image starts, and the reset value of PC (00_scope.md R4). -/
abbrev Config.romBase : Nat := 0x200

/-- ROM_MAX: the longest ROM image, 4096 minus 512 bytes (00_scope.md R4, 70_reset_and_hazards.md R173). -/
abbrev Config.romMax : Nat := 3584

/-- FB_W: framebuffer width in pixels (00_scope.md R4). -/
abbrev Config.fbWidth : Nat := 64

/-- FB_H: framebuffer height in pixels (00_scope.md R4). -/
abbrev Config.fbHeight : Nat := 32

/-- FREE VALUE. The random byte of the n-th draw that the driver has not fixed (10_state.md R28, 42_alu.md R112, decision D13):
any value, with no relation between draws. Nothing can evaluate it (log 3). -/
opaque Config.freeRnd : Nat → Byte

end Sys2Proof
end

