-- ==== Sys2Proof/Machine/State.lean ====
section
/-! DEFINITION. The state of the machine, as plain data, and its reset value (10_state.md). -/

namespace Sys2Proof.Machine

/-- Memory: the cells whose byte differs from what an unlisted address reads as, addresses strictly rising
(10_state.md R18; the canonical form is `Memory.wf` in Machine/Memory.lean). -/
abbrev Memory := List Host.Cell

/-- The fatal errors (60_exceptions.md R150), each with the info it reports. A fatal error is TAKEN by
`State.takeFatal` (R156), a next state with the FAULT latch set: no step answers `Outcome.fault` (log 12). -/
inductive Fault where
  /-- CAUSE 1, raised by the fetch, `Dxyn`, `Fx33`, `Fx55`, `Fx65`, with the offending byte address (60_exceptions.md R151).
  The spec defines the state after it, so taking it is as safe as that rule; answering a fault instead would be safe too. -/
  | outOfBoundsMemoryAccess (addr : Nat)
  /-- CAUSE 2, raised by `2nnn` when SP = 16, with the address of the instruction (60_exceptions.md R152). Taken: see above. -/
  | stackOverflow (pc0 : Word)
  /-- CAUSE 3, raised by `00EE` when SP = 0, with the address of the instruction (60_exceptions.md R153). Taken: see above. -/
  | stackUnderflow (pc0 : Word)
  deriving DecidableEq, Repr

/-- The reasons a step has no meaning. -/
inductive Refusal where
  /-- An instruction that has no meaning yet (safe). No arm of `exec` answers it: every row is modelled. -/
  | notModelled (mnemonic : String)
  /-- Raised by the driver's `reset` with a ROM image of more than 3584 bytes: the host reports MalformedROM and a model
  refuses such a launch (70_reset_and_hazards.md R173, 60_exceptions.md R155). Safe. -/
  | malformedRom (length : Nat)
  deriving DecidableEq, Repr

/-- What the core has reported to its host (60_exceptions.md R150, column "info reported"). -/
inductive Report where
  /-- The record `(pc0, w)` of the `diag` output (10_state.md R30, 60_exceptions.md R154). -/
  | unknownOpcode (pc0 w : Word)
  /-- A fatal error with its info (60_exceptions.md R150, R156). -/
  | fatalError (f : Fault)
  deriving DecidableEq, Repr

/-- The steps of the external driver (10_state.md R29; 70_reset_and_hazards.md R176, R179). -/
inductive DriverEvent where
  /-- The request for one cycle (40_cycle.md R80). -/
  | step
  /-- One timer decrement (40_cycle.md R88). -/
  | tick
  /-- The driver presents a new key vector (10_state.md R27, 70_reset_and_hazards.md R177). -/
  | setKeys (keys : Word)
  /-- The driver writes one key, `setKey(index, down)` (10_state.md R27). -/
  | setKey (index : Nibble) (down : Bool)
  /-- The driver supplies the byte of the next `Cxkk` (10_state.md R28). -/
  | supplyRnd (b : Byte)
  /-- Reset with a ROM image (70_reset_and_hazards.md R170). -/
  | reset (rom : List Byte)
  deriving DecidableEq, Repr

/-- The machine: the spec's state (10_state.md section 1), then the inputs a step finds (`keys`, `rnd`, `draws`, `events`)
and the output it delivers (`reports`), which are the model's own fields (logs 1 to 4). -/
structure State where
  /-- V0..VF (10_state.md R10). -/
  v : Vector Byte 16
  /-- I, the address register (10_state.md R12). -/
  ireg : Addr12
  /-- PC (10_state.md R13). -/
  pc : Word
  /-- STK[0..15] (10_state.md R14). -/
  stk : Vector Word 16
  /-- SP, the number of valid stack entries, 0..16 (10_state.md R14). -/
  sp : Fin 17
  /-- DT, the delay timer (10_state.md R15). -/
  dt : Byte
  /-- ST, the sound timer (10_state.md R16). -/
  st : Byte
  /-- FAULT, the sticky latch (10_state.md R17). -/
  fault : Bool
  /-- CAUSE, the code of the fatal error (10_state.md R17). -/
  cause : BitVec 2
  /-- MEM (10_state.md R18). -/
  mem : Memory
  /-- FB, row by row (10_state.md R19). -/
  fb : Framebuffer
  /-- The key vector the driver presents (10_state.md R27). -/
  keys : Word
  /-- The random byte the driver has supplied, if any (10_state.md R28). -/
  rnd : Option Byte
  /-- MODEL'S OWN: how many free random bytes have been drawn (log 3). -/
  draws : Nat
  /-- MODEL'S OWN: the driver's coming events, next first (log 1). -/
  events : List DriverEvent
  /-- MODEL'S OWN: what has been reported to the host, oldest first (log 4). -/
  reports : List Report
  deriving DecidableEq, Repr

/-- The state right after reset with the empty ROM image (10_state.md R23 with L = 0). Memory lists nothing: every byte
reads as the font or zero (Machine/Memory.lean). `stk` is a DESIGN CHOICE (log 5), so are the driver's fields (logs 1 to 4). -/
def State.reset : State where
  v := Vector.replicate 16 0
  ireg := 0
  pc := 0x0200
  stk := Vector.replicate 16 0
  sp := 0
  dt := 0
  st := 0
  fault := false
  cause := 0
  mem := []
  fb := Vector.replicate 32 0
  keys := 0
  rnd := none
  draws := 0
  events := []
  reports := []

end Sys2Proof.Machine
end

