-- ==== Sys2Proof/Machine/Memory.lean ====
section
/-! DEFINITION. Memory: what an unlisted address reads as, reading and writing bytes, and the canonical form (20_memory.md). -/

namespace Sys2Proof.Machine

/-- The bitmaps of the glyphs 0 to 7, top row first (20_memory.md R46; general knowledge of the spec's writer, log 7). -/
def fontLow : List Byte :=
  [0xF0, 0x90, 0x90, 0x90, 0xF0] ++ [0x20, 0x60, 0x20, 0x20, 0x70] ++ [0xF0, 0x10, 0xF0, 0x80, 0xF0] ++
  [0xF0, 0x10, 0xF0, 0x10, 0xF0] ++ [0x90, 0x90, 0xF0, 0x10, 0x10] ++ [0xF0, 0x80, 0xF0, 0x10, 0xF0] ++
  [0xF0, 0x80, 0xF0, 0x90, 0xF0] ++ [0xF0, 0x10, 0x20, 0x40, 0x40]

/-- The bitmaps of the glyphs 8 to F (20_memory.md R46); glyph A is the source's own (log 7). -/
def fontHigh : List Byte :=
  [0xF0, 0x90, 0xF0, 0x90, 0xF0] ++ [0xF0, 0x90, 0xF0, 0x10, 0xF0] ++ [0xF0, 0x90, 0xF0, 0x90, 0x90] ++
  [0xE0, 0x90, 0xE0, 0x90, 0xE0] ++ [0xF0, 0x80, 0x80, 0x80, 0xF0] ++ [0xE0, 0x90, 0x90, 0x90, 0xE0] ++
  [0xF0, 0x80, 0xF0, 0x80, 0xF0] ++ [0xF0, 0x80, 0xF0, 0x80, 0x80]

/-- The 80 font bytes, glyph d at 5*d (20_memory.md R46). -/
def font : List Byte := fontLow ++ fontHigh

/-- What an unlisted address reads as: the contents after reset with the empty ROM image, the font at 0x000..0x04F and
0x00 elsewhere (10_state.md R23, 20_memory.md R46; logs 6 and 7). -/
def resetByte (a : Nat) : Byte :=
  if a < 80 then font.getD a 0 else 0

/-- The byte at address `a` (20_memory.md R45). Bounds are checked before a read, by `State.guardAccess`. -/
def Memory.read : Memory → Nat → Byte
  | [], a => resetByte a
  | (k, b) :: m, a => if k = a then b else Memory.read m a

/-- Write byte `b` at address `a`, keeping the canonical form: writing what an unlisted address reads as removes the cell
(20_memory.md R45). Bounds are checked before a write, by `State.guardAccess`. -/
def Memory.write : Memory → Nat → Byte → Memory
  | [], a, b => if b = resetByte a then [] else [(a, b)]
  | (k, c) :: m, a, b =>
    if a < k then (if b = resetByte a then (k, c) :: m else (a, b) :: (k, c) :: m)
    else if a = k then (if b = resetByte a then m else (a, b) :: m)
    else (k, c) :: Memory.write m a b

/-- Write a sequence of bytes at `base`, `base + 1`, ... (20_memory.md R41: ascending addresses). -/
def Memory.writeBytes (m : Memory) (base : Nat) : List Byte → Memory
  | [] => m
  | b :: bs => Memory.writeBytes (m.write base b) (base + 1) bs

/-- The `n` bytes at `base`, `base + 1`, ... -/
def Memory.readBytes (m : Memory) (base n : Nat) : List Byte :=
  (List.range n).map fun k => m.read (base + k)

/-- The canonical form: addresses strictly rising and below 4096, no cell equal to what an unlisted address reads as. -/
abbrev Memory.wf (m : Memory) : Prop :=
  m.Pairwise (fun c d => c.1 < d.1) ∧ ∀ c ∈ m, c.1 < Config.memSize ∧ c.2 ≠ resetByte c.1

/-- Memory after reset with a ROM image: byte `rom[i]` at 0x200 + i, unmodified (70_reset_and_hazards.md R171). -/
def Memory.ofRom (rom : List Byte) : Memory :=
  Memory.writeBytes [] Config.romBase rom

end Sys2Proof.Machine
end

