-- ==== Sys2Proof/Machine/Ops.lean ====
section
/-! DEFINITION. The named operations over registers, PC, call stack and memory, and taking a fatal error. -/

namespace Sys2Proof.Machine

/-- What an execution answers. -/
abbrev Result := Host.Outcome State Fault Refusal

/-- V[x] (10_state.md R10): a 4-bit field always names an existing register. -/
def State.getV (s : State) (x : Nibble) : Byte := s.v[x.toNat]'x.isLt

/-- V[x] <- b (10_state.md R10): no register is hard-wired. -/
def State.setV (s : State) (x : Nibble) (b : Byte) : State := { s with v := s.v.set x.toNat b x.isLt }

/-- V[0], ..., V[n-1] in order; used with n at most 16 (43_address_memory.md R124). -/
def State.getVs (s : State) (n : Nat) : List Byte :=
  (List.range n).map fun k => s.getV (BitVec.ofNat 4 k)

/-- V[k] <- first byte, V[k+1] <- second byte, ... (43_address_memory.md R125). -/
def State.setVs (s : State) (k : Nat) : List Byte → State
  | [] => s
  | b :: bs => State.setVs (s.setV (BitVec.ofNat 4 k) b) (k + 1) bs

/-- PC <- target. -/
def State.setPc (s : State) (target : Word) : State := { s with pc := target }

/-- PC <- (PC + 2) mod 65536: the advance after the fetch (40_cycle.md R81). -/
def State.advancePc (s : State) : State := s.setPc (s.pc + 2)

/-- `skip`: PC <- (PC + 2) mod 65536, applied to the post-advance PC (40_cycle.md R84). -/
def State.skip (s : State) : State := s.setPc (s.pc + 2)

/-- Skip when the condition holds (41_control_flow.md R93 to R96, 45_keypad_timers.md R140, R141). -/
def State.skipIf (s : State) (cond : Bool) : State := if cond then s.skip else s

/-- `pc0`, the address of the executing instruction: the post-advance PC minus 2 (40_cycle.md R80; log 19). -/
def State.pc0 (s : State) : Word := s.pc - 2

/-- I <- a (10_state.md R12). -/
def State.setI (s : State) (a : Addr12) : State := { s with ireg := a }

/-- EA(k) = I + k, a natural number that is not reduced (43_address_memory.md R126, 20_memory.md R48). -/
def State.ea (s : State) (k : Nat) : Nat := s.ireg.toNat + k

/-- The byte at address `a`. -/
def State.readMem (s : State) (a : Nat) : Byte := s.mem.read a

/-- Store a sequence of bytes at `base`, `base + 1`, ... -/
def State.storeBytes (s : State) (base : Nat) (bs : List Byte) : State := { s with mem := s.mem.writeBytes base bs }

/-- The instruction word at PC, big-endian (20_memory.md R41). -/
def State.fetchWord (s : State) : Word := wordOfBytes (s.readMem s.pc.toNat) (s.readMem (s.pc.toNat + 1))

/-- Whether the fetch is in bounds: both bytes below 4096 (40_cycle.md R81, 20_memory.md R43). -/
def State.fetchable (s : State) : Bool := s.pc.toNat + 1 < Config.memSize

/-- The offending byte address of a fetch out of bounds: PC if it is itself beyond memory, else PC + 1 (log 22). -/
def State.fetchFaultAddr (s : State) : Nat := if s.pc.toNat < Config.memSize then s.pc.toNat + 1 else s.pc.toNat

/-- Deliver a report to the host (10_state.md R30; log 4). -/
def State.report (s : State) (r : Report) : State := { s with reports := s.reports ++ [r] }

/-- The CAUSE code of a fatal error (60_exceptions.md R150). -/
def causeCode : Fault → BitVec 2
  | .outOfBoundsMemoryAccess _ => 1
  | .stackOverflow _ => 2
  | .stackUnderflow _ => 3

/-- Fatal-error entry: FAULT <- 1, CAUSE <- code, the info reported; nothing saved, no vector, PC not redirected
(60_exceptions.md R156, R157). There is no return from it: the one exit is reset (R159), `State.resetWith` below. -/
def State.takeFatal (s : State) (f : Fault) : State :=
  { s.report (.fatalError f) with fault := true, cause := causeCode f }

/-- `raise`: take the fatal error and abandon the rest of the cycle (60_exceptions.md R156). -/
def raise (f : Fault) (s : State) : Result := .next (s.takeFatal f)

/-- Do `go` if the highest byte address an instruction touches exists, else raise `OutOfBoundsMemoryAccess` before any
access (20_memory.md R43, 43_address_memory.md R126). -/
def State.guardAccess (s : State) (last : Nat) (go : State → State) : Result :=
  if last < Config.memSize then .next (go s) else raise (.outOfBoundsMemoryAccess last) s

/-- Push PC and go to `target`, or raise `StackOverflow` when SP = 16 (41_control_flow.md R92, 60_exceptions.md R152). -/
def State.callTo (s : State) (target : Word) : Result :=
  if h : s.sp.val < 16 then
    .next { s with stk := s.stk.set s.sp.val s.pc h, sp := ⟨s.sp.val + 1, by omega⟩, pc := target }
  else raise (.stackOverflow s.pc0) s

/-- Pop into PC, or raise `StackUnderflow` when SP = 0 (41_control_flow.md R90, 60_exceptions.md R153). The popped entry
stays in `stk`, no longer valid. -/
def State.popPc (s : State) : Result :=
  if h : 0 < s.sp.val then
    .next { s with sp := ⟨s.sp.val - 1, by omega⟩, pc := s.stk[s.sp.val - 1]'(by omega) }
  else raise (.stackUnderflow s.pc0) s

/-- The random byte of this cycle (10_state.md R28): the byte the driver has supplied, else a free value (log 3). -/
def State.rndByte (s : State) : Byte := s.rnd.getD (Config.freeRnd s.draws)

/-- After the one sample of a `Cxkk` cycle: the supplied byte is used up, or one more free byte has been drawn (log 3). -/
def State.consumeRnd (s : State) : State :=
  match s.rnd with
  | some _ => { s with rnd := none }
  | none => { s with draws := s.draws + 1 }

/-- Reset with a ROM image: every piece of the core's state takes its reset value and the image stands at 0x200
(70_reset_and_hazards.md R170, R171, 10_state.md R23); the driver's side of the state stays (log 23). -/
def State.resetCore (s : State) (rom : List Byte) : State :=
  { State.reset with
    mem := Memory.ofRom rom, keys := s.keys, rnd := s.rnd, draws := s.draws, events := s.events, reports := s.reports }

/-- `reset(rom)`: defined for images of 0 to 3584 bytes, refused for a longer one (70_reset_and_hazards.md R173). -/
def State.resetWith (s : State) (rom : List Byte) : Result :=
  if rom.length ≤ Config.romMax then .next (s.resetCore rom) else .refused (.malformedRom rom.length)

end Sys2Proof.Machine
end

