-- ==== Sys2Proof/Machine/Flags.lean ====
section
/-! DEFINITION. The flag computations and the write of VF (10_state.md R11, 42_alu.md R100). -/

namespace Sys2Proof.Machine

/-- VF, the register that receives flags (10_state.md R11). -/
def vf : Nibble := 0xF

/-- Carry of an 8-bit addition: the unsigned sum exceeds 255 (42_alu.md R107). -/
def carryFlag (a b : Byte) : Bool := a.toNat + b.toNat > 255

/-- The flag of a subtraction: the minuend is strictly greater, so 0 for equal operands (42_alu.md R108, R110). -/
def greaterFlag (minuend subtrahend : Byte) : Bool := minuend.toNat > subtrahend.toNat

/-- The bit shifted out to the right (42_alu.md R109). -/
def lowBitFlag (a : Byte) : Bool := a.getLsbD 0

/-- The bit shifted out to the left (42_alu.md R111). -/
def highBitFlag (a : Byte) : Bool := a.getLsbD 7

/-- The sum I + Vx leaves the 12-bit range (43_address_memory.md R121). -/
def addressFlag (a : Addr12) (b : Byte) : Bool := a.toNat + b.toNat > 0xFFF

/-- A flag as the byte VF receives: 1 or 0, never another value (10_state.md R11). -/
def flagByte (c : Bool) : Byte := if c then 1 else 0

/-- VF <- flag (10_state.md R11). -/
def State.setFlag (s : State) (c : Bool) : State := s.setV vf (flagByte c)

/-- Result first, flag second: for x = F the flag is what VF holds (42_alu.md R100; log 11). -/
def State.setResultFlag (s : State) (x : Nibble) (r : Byte) (c : Bool) : State := (s.setV x r).setFlag c

end Sys2Proof.Machine
end

