-- ==== Sys2Proof/Machine/Operands.lean ====
section
/-! DEFINITION. Operand forms: immediates, the key and glyph selected by a register, BCD digits (30_encoding.md R62). -/

namespace Sys2Proof.Machine

/-- An address field as a PC value, zero-extended (30_encoding.md R62). -/
def immTarget (nnn : Addr12) : Word := nnn.setWidth 16

/-- V0 + nnn modulo 65536, V0 zero-extended (41_control_flow.md R97). -/
def indexedTarget (v0 : Byte) (nnn : Addr12) : Word := v0.setWidth 16 + nnn.setWidth 16

/-- The low four bits of a register value: a key or glyph index (45_keypad_timers.md R146, 43_address_memory.md R122; log 14). -/
def lowNibble (b : Byte) : Nibble := b.extractLsb' 0 4

/-- Whether key `k` is down (10_state.md R27). -/
def keyDown (keys : Word) (k : Nibble) : Bool := keys.getLsbD k.toNat

/-- The smallest index of a key that is down, if any (45_keypad_timers.md R142). -/
def lowestKeyDown (keys : Word) : Option Nibble :=
  ((List.range 16).find? fun k => keys.getLsbD k).map (BitVec.ofNat 4)

/-- FONT_BASE + 5 * d, the address of glyph d (43_address_memory.md R122). -/
def glyphAddr (d : Nibble) : Addr12 := BitVec.ofNat 12 (Config.fontBase + Config.glyphBytes * d.toNat)

/-- Hundreds, tens and ones of a byte (43_address_memory.md R123). -/
def bcdDigits (b : Byte) : List Byte :=
  [BitVec.ofNat 8 (b.toNat / 100), BitVec.ofNat 8 (b.toNat / 10 % 10), BitVec.ofNat 8 (b.toNat % 10)]

end Sys2Proof.Machine
end

