-- ==== Sys2Proof/Machine/AddressMemory.lean ====
section
/-! DEFINITION. Address register and memory instructions (43_address_memory.md). -/

namespace Sys2Proof.Machine

/-- `Annn` LD I, nnn (43_address_memory.md R120). -/
def execLdI (nnn : Addr12) (s : State) : Result := .next (s.setI nnn)

/-- `Fx1E` ADD I, Vx: I modulo 4096, VF the overflow of the unmasked sum (43_address_memory.md R121; log 10). -/
def execAddI (x : Nibble) (s : State) : Result :=
  .next ((s.setI (s.ireg + (s.getV x).setWidth 12)).setFlag (addressFlag s.ireg (s.getV x)))

/-- `Fx29` LD F, Vx: the glyph of the low nibble (43_address_memory.md R122; log 14). -/
def execLdFont (x : Nibble) (s : State) : Result := .next (s.setI (glyphAddr (lowNibble (s.getV x))))

/-- `Fx33` LD B, Vx: three BCD digits at I, I+1, I+2 (43_address_memory.md R123). -/
def execLdBcd (x : Nibble) (s : State) : Result :=
  s.guardAccess (s.ea 2) fun s => s.storeBytes (s.ea 0) (bcdDigits (s.getV x))

/-- `Fx55` LD [I], Vx: store V0..Vx at I.. (43_address_memory.md R124). -/
def execStRegs (x : Nibble) (s : State) : Result :=
  s.guardAccess (s.ea x.toNat) fun s => s.storeBytes (s.ea 0) (s.getVs (x.toNat + 1))

/-- `Fx65` LD Vx, [I]: load V0..Vx from I.. (43_address_memory.md R125). -/
def execLdRegs (x : Nibble) (s : State) : Result :=
  s.guardAccess (s.ea x.toNat) fun s => s.setVs 0 (s.mem.readBytes (s.ea 0) (x.toNat + 1))

end Sys2Proof.Machine
end

