-- ==== Sys2Proof/Machine/Alu.lean ====
section
/-! DEFINITION. Register load, arithmetic, logic, shift and random instructions (42_alu.md). -/

namespace Sys2Proof.Machine

/-- `6xkk` LD Vx, kk (42_alu.md R101). -/
def execLdImm (x : Nibble) (kk : Byte) (s : State) : Result := .next (s.setV x kk)

/-- `7xkk` ADD Vx, kk, no flag (42_alu.md R102). -/
def execAddImm (x : Nibble) (kk : Byte) (s : State) : Result := .next (s.setV x (s.getV x + kk))

/-- `8xy0` LD Vx, Vy (42_alu.md R103). -/
def execLdReg (x y : Nibble) (s : State) : Result := .next (s.setV x (s.getV y))

/-- `8xy1` OR Vx, Vy; VF not written (42_alu.md R104). -/
def execOrReg (x y : Nibble) (s : State) : Result := .next (s.setV x (s.getV x ||| s.getV y))

/-- `8xy2` AND Vx, Vy; VF not written (42_alu.md R105). -/
def execAndReg (x y : Nibble) (s : State) : Result := .next (s.setV x (s.getV x &&& s.getV y))

/-- `8xy3` XOR Vx, Vy; VF not written (42_alu.md R106). -/
def execXorReg (x y : Nibble) (s : State) : Result := .next (s.setV x (s.getV x ^^^ s.getV y))

/-- `8xy4` ADD Vx, Vy with carry out (42_alu.md R107). -/
def execAddReg (x y : Nibble) (s : State) : Result :=
  .next (s.setResultFlag x (s.getV x + s.getV y) (carryFlag (s.getV x) (s.getV y)))

/-- `8xy5` SUB Vx, Vy (42_alu.md R108). -/
def execSubReg (x y : Nibble) (s : State) : Result :=
  .next (s.setResultFlag x (s.getV x - s.getV y) (greaterFlag (s.getV x) (s.getV y)))

/-- `8xy6` SHR Vx; y ignored (42_alu.md R109). -/
def execShr (x _y : Nibble) (s : State) : Result :=
  .next (s.setResultFlag x (s.getV x >>> 1) (lowBitFlag (s.getV x)))

/-- `8xy7` SUBN Vx, Vy (42_alu.md R110). -/
def execSubnReg (x y : Nibble) (s : State) : Result :=
  .next (s.setResultFlag x (s.getV y - s.getV x) (greaterFlag (s.getV y) (s.getV x)))

/-- `8xyE` SHL Vx; y ignored (42_alu.md R111). -/
def execShl (x _y : Nibble) (s : State) : Result :=
  .next (s.setResultFlag x (s.getV x <<< 1) (highBitFlag (s.getV x)))

/-- `Cxkk` RND Vx, kk: one sample of the random byte, masked (42_alu.md R112). -/
def execRnd (x : Nibble) (kk : Byte) (s : State) : Result := .next (s.consumeRnd.setV x (s.rndByte &&& kk))

end Sys2Proof.Machine
end

