-- ==== Sys2Proof/Machine/Control.lean ====
section
/-! DEFINITION. Control transfer (41_control_flow.md). Every meaning starts after the PC advance (40_cycle.md R81). -/

namespace Sys2Proof.Machine

/-- `00EE` RET (41_control_flow.md R90). -/
def execRet (s : State) : Result := s.popPc

/-- `1nnn` JP nnn (41_control_flow.md R91). -/
def execJp (nnn : Addr12) (s : State) : Result := .next (s.setPc (immTarget nnn))

/-- `2nnn` CALL nnn (41_control_flow.md R92). -/
def execCall (nnn : Addr12) (s : State) : Result := s.callTo (immTarget nnn)

/-- `3xkk` SE Vx, kk (41_control_flow.md R93). -/
def execSeImm (x : Nibble) (kk : Byte) (s : State) : Result := .next (s.skipIf (s.getV x == kk))

/-- `4xkk` SNE Vx, kk (41_control_flow.md R94). -/
def execSneImm (x : Nibble) (kk : Byte) (s : State) : Result := .next (s.skipIf (s.getV x != kk))

/-- `5xy0` SE Vx, Vy (41_control_flow.md R95). -/
def execSeReg (x y : Nibble) (s : State) : Result := .next (s.skipIf (s.getV x == s.getV y))

/-- `9xy0` SNE Vx, Vy (41_control_flow.md R96). -/
def execSneReg (x y : Nibble) (s : State) : Result := .next (s.skipIf (s.getV x != s.getV y))

/-- `Bnnn` JP V0, nnn (41_control_flow.md R97). -/
def execJpV0 (nnn : Addr12) (s : State) : Result := .next (s.setPc (indexedTarget (s.getV 0) nnn))

end Sys2Proof.Machine
end

