-- ==== Sys2Proof/Machine/Display.lean ====
section
/-! DEFINITION. The sprite compositor, its collision detector, and the display instructions (44_display.md). -/

namespace Sys2Proof.Machine

/-- FB[ty*64 + tx], the pixel at column `tx`, row `ty` (10_state.md R19). -/
def readPixel (fb : Framebuffer) (tx : Fin 64) (ty : Fin 32) : Bool := fb[ty].getLsbD tx

/-- FB[ty*64 + tx] <- FB[ty*64 + tx] XOR 1 (44_display.md R132). -/
def togglePixel (fb : Framebuffer) (tx : Fin 64) (ty : Fin 32) : Framebuffer :=
  fb.set ty (fb[ty] ^^^ BitVec.twoPow 64 tx)

/-- The framebuffer with every cell 0 (44_display.md R130). -/
def clearFramebuffer : Framebuffer := Vector.replicate 32 0

/-- The column that column `j` of a sprite at `vx` lands on: (vx + j) mod 64 (44_display.md R132). -/
def spriteColumn (vx : Byte) (j : Nat) : Fin 64 := ⟨(vx.toNat + j) % Config.fbWidth, Nat.mod_lt _ (by decide)⟩

/-- The row that row `i` of a sprite at `vy` lands on: (vy + i) mod 32 (44_display.md R132). -/
def spriteLine (vy : Byte) (i : Nat) : Fin 32 := ⟨(vy.toNat + i) % Config.fbHeight, Nat.mod_lt _ (by decide)⟩

/-- One bit of a sprite byte, bit 7 being column 0: a 1 bit toggles its cell and collides if it was set, a 0 bit does
nothing (44_display.md R132). -/
def drawBit (vx vy : Byte) (i : Nat) (row : Byte) (acc : Framebuffer × Bool) (j : Nat) : Framebuffer × Bool :=
  if row.getLsbD (7 - j) then
    (togglePixel acc.1 (spriteColumn vx j) (spriteLine vy i),
      acc.2 || readPixel acc.1 (spriteColumn vx j) (spriteLine vy i))
  else acc

/-- One sprite row: its eight columns, leftmost first (44_display.md R132). -/
def drawRow (vx vy : Byte) (i : Nat) (row : Byte) (acc : Framebuffer × Bool) : Framebuffer × Bool :=
  (List.range 8).foldl (drawBit vx vy i row) acc

/-- The rows of a sprite from row `i` on, top first (44_display.md R132). -/
def drawRows (vx vy : Byte) : Nat → List Byte → Framebuffer × Bool → Framebuffer × Bool
  | _, [], acc => acc
  | i, row :: rows, acc => drawRows vx vy (i + 1) rows (drawRow vx vy i row acc)

/-- `draw(vx, vy, S)`: the new framebuffer and `collided` (44_display.md R132). -/
def draw (vx vy : Byte) (sprite : List Byte) (fb : Framebuffer) : Framebuffer × Bool :=
  drawRows vx vy 0 sprite (fb, false)

/-- Draw and write VF <- collision (44_display.md R131); the coordinates were read before. -/
def State.drawSprite (s : State) (vx vy : Byte) (sprite : List Byte) : State :=
  { s.setFlag (draw vx vy sprite s.fb).2 with fb := (draw vx vy sprite s.fb).1 }

/-- `00E0` CLS: every cell 0 (44_display.md R130). -/
def execCls (s : State) : Result := .next { s with fb := clearFramebuffer }

/-- `Dxyn` DRW Vx, Vy, n: with n = 0 nothing is read and nothing can be out of bounds (44_display.md R131). -/
def execDrw (x y n : Nibble) (s : State) : Result :=
  if n = 0 then .next (s.drawSprite (s.getV x) (s.getV y) [])
  else s.guardAccess (s.ea (n.toNat - 1)) fun s =>
    s.drawSprite (s.getV x) (s.getV y) (s.mem.readBytes (s.ea 0) n.toNat)

end Sys2Proof.Machine
end

