-- ==== Sys2Proof/Machine/KeypadTimers.lean ====
section
/-! DEFINITION. Keypad and timer instructions (45_keypad_timers.md). -/

namespace Sys2Proof.Machine

/-- `Ex9E` SKP Vx (45_keypad_timers.md R140). -/
def execSkp (x : Nibble) (s : State) : Result := .next (s.skipIf (keyDown s.keys (lowNibble (s.getV x))))

/-- `ExA1` SKNP Vx (45_keypad_timers.md R141). -/
def execSknp (x : Nibble) (s : State) : Result := .next (s.skipIf (!keyDown s.keys (lowNibble (s.getV x))))

/-- `Fx07` LD Vx, DT (45_keypad_timers.md R143). -/
def execLdVxDt (x : Nibble) (s : State) : Result := .next (s.setV x s.dt)

/-- `Fx0A` LD Vx, K: the lowest key that is down, or PC back to this instruction (45_keypad_timers.md R142; log 24). -/
def execLdVxKey (x : Nibble) (s : State) : Result :=
  match lowestKeyDown s.keys with
  | none => .next (s.setPc s.pc0)
  | some k => .next (s.setV x (k.setWidth 8))

/-- `Fx15` LD DT, Vx (45_keypad_timers.md R144). -/
def execLdDtVx (x : Nibble) (s : State) : Result := .next { s with dt := s.getV x }

/-- `Fx18` LD ST, Vx (45_keypad_timers.md R145). -/
def execLdStVx (x : Nibble) (s : State) : Result := .next { s with st := s.getV x }

end Sys2Proof.Machine
end

