-- ==== Sys2Proof/Machine/Unknown.lean ====
section
/-! DEFINITION. The unknown-opcode pseudo-instruction (40_cycle.md R85). -/

namespace Sys2Proof.Machine

/-- UNKNOWN: report (pc0, w); nothing else changes, PC keeps its post-advance value (40_cycle.md R85, 60_exceptions.md R154). -/
def execUnknown (w : Word) (s : State) : Result := .next (s.report (.unknownOpcode s.pc0 w))

end Sys2Proof.Machine
end

