-- ==== Sys2Proof/Machine/Cycle.lean ====
section
/-! DEFINITION. The fetch-decode-execute cycle (40_cycle.md R80, R81, R86). -/

namespace Sys2Proof.Machine

/-- One cycle, the checks in the order of 60_exceptions.md R158: the FAULT gate (40_cycle.md R86), the fetch bounds (R81: PC
not advanced on a fetch fault), the PC advance, decode, execute (R80). -/
def cycle (s : State) : Result :=
  if s.fault then .next s
  else if s.fetchable then exec (decode s.fetchWord) s.advancePc
  else raise (.outOfBoundsMemoryAccess s.fetchFaultAddr) s

end Sys2Proof.Machine
end

