-- ==== Sys2Proof/Machine/Driver.lean ====
section
/-! DEFINITION. The external driver's events and the order in which they come (10_state.md R27 to R29, 40_cycle.md R88,
70_reset_and_hazards.md R176, R179; log 1). -/

namespace Sys2Proof.Machine

/-- One timer decrement: by exactly 1, never below 0 (40_cycle.md R88). -/
def decTimer (t : Byte) : Byte := if t = 0 then 0 else t - 1

/-- `tick`: both timers, nothing else, whatever FAULT is (40_cycle.md R88). -/
def State.tick (s : State) : State := { s with dt := decTimer s.dt, st := decTimer s.st }

/-- `setKey(index, down)`: one key of the vector (10_state.md R27). -/
def writeKey (keys : Word) (index : Nibble) (down : Bool) : Word :=
  if down then keys ||| BitVec.twoPow 16 index.toNat else keys &&& ~~~(BitVec.twoPow 16 index.toNat)

/-- Perform one event (10_state.md R27 to R29): each is atomic (70_reset_and_hazards.md R176). -/
def perform (e : DriverEvent) (s : State) : Result :=
  match e with
  | .step => cycle s
  | .tick => .next s.tick
  | .setKeys keys => .next { s with keys := keys }
  | .setKey index down => .next { s with keys := writeKey s.keys index down }
  | .supplyRnd b => .next { s with rnd := some b }
  | .reset rom => s.resetWith rom

/-- The event that comes next: the first of the schedule, and the `step` request when the schedule says nothing (log 1). -/
def State.nextEvent (s : State) : DriverEvent := s.events.headD .step

/-- The state once the next event is taken off the schedule. -/
def State.popEvent (s : State) : State := { s with events := s.events.tail }

end Sys2Proof.Machine
end

