-- ==== Sys2Proof/Machine/Step.lean ====
section
/-! DEFINITION. One step of the machine: the next event of the schedule (70_reset_and_hazards.md R176; log 1), and the
placing of one instruction where the next cycle fetches it (log 20). -/

namespace Sys2Proof.Machine

/-- Take the next event off the schedule and perform it. With an empty schedule this is one cycle (40_cycle.md R80). -/
def step (s : State) : Host.Outcome State Fault Refusal := perform s.nextEvent s.popEvent

/-- Where `withFetchWord` places its word: at PC if the two bytes exist, else at 0x200. -/
def State.placePc (s : State) : Word := if s.fetchable then s.pc else 0x0200

/-- `s` with the table word `w` stored big-endian where the very next step fetches its instruction; the next event is the
`step` request and the FAULT gate is open. Nothing else changes (log 20). -/
def State.withFetchWord (s : State) (nbits w : Nat) : State :=
  { s with
    pc := s.placePc
    mem := s.mem.writeBytes s.placePc.toNat [highByte (tableWord nbits w), lowByte (tableWord nbits w)]
    fault := false
    cause := 0
    events := if s.nextEvent = .step then s.events else .step :: s.events }

end Sys2Proof.Machine
end

