-- ==== Sys2Proof/Machine/HostPort.lean ====
section
/-! DEFINITION. What the host can read between events, none of it changing the state (10_state.md R30, R31, 44_display.md R136). -/

namespace Sys2Proof.Machine

/-- `getPixel(tx, ty)` = FB[ty*64 + tx], for tx in 0..63 and ty in 0..31 (44_display.md R136). -/
def State.getPixel (s : State) (tx : Fin 64) (ty : Fin 32) : Bool := readPixel s.fb tx ty

/-- The framebuffer as 2048 cells in row-major order, FB[0] first (44_display.md R136). -/
def State.frame (s : State) : List Bool := (List.finRange 2048).map fun k =>
  readPixel s.fb ⟨k.val % 64, by omega⟩ ⟨k.val / 64, by omega⟩

/-- DT as the host reads it (10_state.md R31). -/
def State.hostDt (s : State) : Byte := s.dt

/-- ST as the host reads it (10_state.md R16, R31). -/
def State.hostSt (s : State) : Byte := s.st

/-- The level outputs FAULT and CAUSE (10_state.md R30). -/
def State.faultOutputs (s : State) : Bool × BitVec 2 := (s.fault, s.cause)

/-- The records delivered on `diag`, oldest first (10_state.md R30, 60_exceptions.md R154). -/
def State.diagRecords (s : State) : List (Word × Word) :=
  s.reports.filterMap fun
    | .unknownOpcode pc0 w => some (pc0, w)
    | .fatalError _ => none

end Sys2Proof.Machine
end

