-- ==== Sys2Proof/Safety.lean ====
section
/-! DEFINITION. What counts as a good state, a stopped program and a reachable state, in the terms claims use. -/

namespace Sys2Proof.Machine

/-- The invariants of 10_state.md R24 that the types do not already hold: memory in its canonical form, and CAUSE = 0 iff
FAULT = 0. -/
abbrev State.Inv (s : State) : Prop := s.mem.wf ∧ (s.cause = 0 ↔ s.fault = false)

/-- The bounds of 40_cycle.md R87: PC at most 0x10FE, every valid stack entry at most 0x1000. -/
abbrev State.PcBounded (s : State) : Prop :=
  s.pc.toNat ≤ 0x10FE ∧ ∀ k : Fin 16, k.val < s.sp.val → s.stk[k].toNat ≤ 0x1000

/-- The next event is a `step` request that will execute an instruction: no fault, and the fetch in bounds. -/
abbrev State.Ready (s : State) : Prop := s.nextEvent = .step ∧ s.fault = false ∧ s.fetchable = true

/-- "The program has stopped": FAULT = 0 and the word at PC is `1nnn` with nnn = PC (70_reset_and_hazards.md R174). -/
abbrev State.Spinning (s : State) : Prop :=
  s.fault = false ∧ s.fetchable = true ∧ decode s.fetchWord = .jp (s.pc.setWidth 12)

/-- Awaiting-key: PC points at an `Fx0A` and no key is down (10_state.md R21). -/
abbrev State.AwaitingKey (s : State) : Prop :=
  s.fault = false ∧ s.fetchable = true ∧ s.keys = 0 ∧ ∃ x, decode s.fetchWord = .ldVxKey x

/-- When an instruction raises a fatal error, its one check (60_exceptions.md R151 to R153, R158): every other instruction
cannot fail (R150). -/
def fatalCondition (i : Instr) (s : State) : Prop :=
  match i with
  | .call _ => s.sp.val = 16
  | .ret => s.sp.val = 0
  | .drw _ _ n => 0 < n.toNat ∧ 4096 ≤ s.ireg.toNat + n.toNat - 1
  | .ldBcd _ => 4096 ≤ s.ireg.toNat + 2
  | .stRegs x | .ldRegs x => 4096 ≤ s.ireg.toNat + x.toNat
  | .cls | .jp _ | .seImm _ _ | .sneImm _ _ | .seReg _ _ | .ldImm _ _ | .addImm _ _ | .ldReg _ _ | .orReg _ _ => False
  | .andReg _ _ | .xorReg _ _ | .addReg _ _ | .subReg _ _ | .shr _ _ | .subnReg _ _ | .shl _ _ | .sneReg _ _ => False
  | .ldI _ | .jpV0 _ | .rnd _ _ | .skp _ | .sknp _ | .ldVxDt _ | .ldVxKey _ | .ldDtVx _ | .ldStVx _ => False
  | .addI _ | .ldFont _ | .unknown _ => False

/-- The column "writes" of the table of 10_state.md R10: whether an instruction may write V[y]. -/
def mayWriteV (i : Instr) (y : Nibble) : Prop :=
  match i with
  | .ldImm x _ | .addImm x _ | .ldReg x _ | .orReg x _ | .andReg x _ | .xorReg x _ | .rnd x _ | .ldVxDt x | .ldVxKey x => y = x
  | .addReg x _ | .subReg x _ | .subnReg x _ | .shr x _ | .shl x _ => y = x ∨ y = 0xF
  | .drw _ _ _ | .addI _ => y = 0xF
  | .ldRegs x => y.toNat ≤ x.toNat
  | .cls | .ret | .jp _ | .call _ | .seImm _ _ | .sneImm _ _ | .seReg _ _ | .sneReg _ _ | .ldI _ | .jpV0 _ => False
  | .skp _ | .sknp _ | .ldDtVx _ | .ldStVx _ | .ldFont _ | .ldBcd _ | .stRegs _ | .unknown _ => False

/-- A run starts with `reset(rom)` on whatever the driver presents (70_reset_and_hazards.md R170, R172) and goes on by steps. -/
inductive Reachable : State → Prop where
  | launch (s t : State) (rom : List Byte) (h : s.resetWith rom = .next t) : Reachable t
  | next (s t : State) (hs : Reachable s) (h : step s = .next t) : Reachable t

end Sys2Proof.Machine
end

