-- ==== Sys2Proof/Certificates/Slice0/Obligations.lean ====
section
/-! DEFINITION. The statements for the provers, each from the spec's rules. In a statement about `exec`, the state `s` is the
one after the PC advance (00_scope.md R6), so `s.pc` is the instruction's address plus 2. "log n" is notes/assumptions/n.md. -/

open Sys2Proof Sys2Proof.Machine

/-! ### Encoding and decoding -/

/-- Words written out from the patterns of 30_encoding.md R66 decode to the instructions they stand for, at least one of every
family; words beside a pattern are unknown (the spec's own decision D14, log 15). -/
def Obligations.WrittenWordsDecode : Prop :=
  decode 0x00E0 = .cls ∧ decode 0x00EE = .ret ∧ decode 0x1234 = .jp 0x234 ∧ decode 0x2FFF = .call 0xFFF ∧
  decode 0x3A05 = .seImm 0xA 0x05 ∧ decode 0x9AB0 = .sneReg 0xA 0xB ∧ decode 0xB300 = .jpV0 0x300 ∧
  decode 0x71FF = .addImm 0x1 0xFF ∧ decode 0x8127 = .subnReg 0x1 0x2 ∧ decode 0x812E = .shl 0x1 0x2 ∧
  decode 0xC10F = .rnd 0x1 0x0F ∧ decode 0xA2F0 = .ldI 0x2F0 ∧ decode 0xF265 = .ldRegs 0x2 ∧ decode 0xF133 = .ldBcd 0x1 ∧
  decode 0xD125 = .drw 0x1 0x2 0x5 ∧ decode 0xE19E = .skp 0x1 ∧ decode 0xF30A = .ldVxKey 0x3 ∧ decode 0xF215 = .ldDtVx 0x2 ∧
  decode 0x0FFF = .unknown 0x0FFF ∧ decode 0x01E0 = .unknown 0x01E0 ∧ decode 0x5121 = .unknown 0x5121

/-- Decoding the word of a well-formed instruction gives it back, every operand at every value (30_encoding.md R61, R66). -/
def Obligations.DecodeEncodeRoundTrip : Prop :=
  ∀ i : Instr, i.wf = true → decode (encode i) = i

/-- Encoding what a word decodes to gives the word back, and it is well formed: the decoder is total and loses no bit
(30_encoding.md R63). -/
def Obligations.EncodeDecodeRoundTrip : Prop :=
  ∀ w : Word, encode (decode w) = w ∧ (decode w).wf = true

/-- The decoder, written as nested dispatch, selects exactly the row whose mask and match fit; no word fits two rows, and a
word that fits none is the unknown row (30_encoding.md R63, R66). -/
def Obligations.DecoderFollowsOpcodeTable : Prop :=
  ∀ w : Word,
    (∀ r ∈ opcodeRows, (w &&& r.mask = r.value ↔ (decode w).row = r.number)) ∧
    ((∀ r ∈ opcodeRows, w &&& r.mask ≠ r.value) ↔ decode w = .unknown w)

/-- The unknown words are those of the table of 30_encoding.md R65 (strict matching is the spec's own decision D14, log 15). -/
def Obligations.UnknownWordsAreTheListedOnes : Prop :=
  ∀ w : Word,
    let op := w.toNat / 4096
    let n := w.toNat % 16
    let kk := w.toNat % 256
    decode w = .unknown w ↔
      (op = 0x0 ∧ w.toNat ≠ 0x00E0 ∧ w.toNat ≠ 0x00EE) ∨
      (op = 0x5 ∧ n ≠ 0) ∨
      (op = 0x8 ∧ n ∈ [0x8, 0x9, 0xA, 0xB, 0xC, 0xD, 0xF]) ∨
      (op = 0x9 ∧ n ≠ 0) ∨
      (op = 0xE ∧ kk ∉ [0x9E, 0xA1]) ∨
      (op = 0xF ∧ kk ∉ [0x07, 0x0A, 0x15, 0x18, 0x1E, 0x29, 0x33, 0x55, 0x65])

/-- Two bytes decode as the big-endian word they form and the rest is left, fewer are refused as truncated; and the word fetched
is MEM[PC] * 256 + MEM[PC+1], whatever the parity of PC (20_memory.md R41, R42, 30_encoding.md R60). -/
def Obligations.BytesAndFetchAreBigEndian : Prop :=
  (∀ (hi lo : Byte) (rest : List Byte),
    decodeBytes (hi :: lo :: rest) = .ok (decode (BitVec.ofNat 16 (hi.toNat * 256 + lo.toNat)), rest) ∧
    decodeBytes [hi] = .error .truncated ∧ decodeBytes [] = .error .truncated) ∧
  ∀ s : State, s.fetchWord.toNat = (s.readMem s.pc.toNat).toNat * 256 + (s.readMem (s.pc.toNat + 1)).toNat

/-! ### The cycle and the driver's events -/

/-- When the two bytes at PC decode to `i`, a `step` request of a core without fault is `exec i` on the state whose PC is
advanced by 2; the event is taken off the schedule (40_cycle.md R80, R81; log 1). -/
def Obligations.StepRunsDecodedInstruction : Prop :=
  ∀ (s : State) (i : Instr), s.nextEvent = .step → s.fault = false → s.pc.toNat + 1 < 4096 →
    decodeBytes [s.readMem s.pc.toNat, s.readMem (s.pc.toNat + 1)] = .ok (i, []) →
    step s = exec i { s with pc := s.pc + 2, events := s.events.tail }

/-- A fetch that needs a byte at 4096 or beyond takes `OutOfBoundsMemoryAccess` with PC not advanced and nothing else written
(40_cycle.md R81; the latch, its code and the unadvanced PC are the spec's decisions D3, D5, D4, logs 12 and 13; the reported
address is the model's reading, log 22). -/
def Obligations.FetchBeyondMemoryTakesFault : Prop :=
  ∀ s : State, s.nextEvent = .step → s.fault = false → 4096 ≤ s.pc.toNat + 1 →
    step s = .next { s with
      fault := true, cause := 1, events := s.events.tail,
      reports := s.reports ++ [.fatalError (.outOfBoundsMemoryAccess (max s.pc.toNat 4096))] }

/-- A tick decrements both timers by exactly 1, never below 0, and changes nothing else, in a faulted core too (40_cycle.md R88;
the faulted case is the spec's decision D15, log 12). -/
def Obligations.TickDecrementsBothTimers : Prop :=
  ∀ s : State, s.nextEvent = .tick →
    ∃ t, step s = .next t ∧
      t.dt.toNat = s.dt.toNat - 1 ∧ t.st.toNat = s.st.toNat - 1 ∧
      t = { s with dt := t.dt, st := t.st, events := s.events.tail }

/-- What the driver's key and random-byte events do: they change the presented input and nothing of the core
(10_state.md R27, R28, 70_reset_and_hazards.md R179; the inputs stand in State by logs 1 to 3). -/
def Obligations.DriverInputsTouchNothingElse : Prop :=
  ∀ s : State,
    (∀ ks, s.nextEvent = .setKeys ks → step s = .next { s with keys := ks, events := s.events.tail }) ∧
    (∀ b, s.nextEvent = .supplyRnd b → step s = .next { s with rnd := some b, events := s.events.tail }) ∧
    (∀ index down, s.nextEvent = .setKey index down →
      ∃ t, step s = .next t ∧ t = { s with keys := t.keys, events := s.events.tail } ∧
        ∀ k : Nibble, t.keys.getLsbD k.toNat = if k = index then down else s.keys.getLsbD k.toNat)

/-- Reset with an image of at most 3584 bytes: every register and flag at its reset value, the framebuffer clear, the image
byte for byte at 0x200, the font at 0 and zero elsewhere (70_reset_and_hazards.md R170, R171, 10_state.md R23). The zeros, the
font bytes but glyph A's, FAULT and CAUSE are the spec's decisions D3, D5 to D8 (logs 6, 7, 12). That the driver's side, keys, rnd,
draws, the rest of the schedule and the reports, stays is the model's choice and no rule of the spec (log 23, DEDUCED). -/
def Obligations.ResetLoadsRomImage : Prop :=
  ∀ (s : State) (rom : List Byte), s.nextEvent = .reset rom → rom.length ≤ 3584 →
    ∃ t, step s = .next t ∧
      t.pc = 0x0200 ∧ (∀ x, t.getV x = 0) ∧ t.ireg = 0 ∧ t.sp.val = 0 ∧ t.dt = 0 ∧ t.st = 0 ∧
      t.fault = false ∧ t.cause = 0 ∧ (∀ tx ty, t.getPixel tx ty = false) ∧
      (∀ k, k < rom.length → t.readMem (0x200 + k) = rom.getD k 0) ∧
      (∀ a, a < 80 → t.readMem a = font.getD a 0) ∧
      (∀ a, 80 ≤ a ∧ (a < 0x200 ∨ 0x200 + rom.length ≤ a) → t.readMem a = 0) ∧
      t.keys = s.keys ∧ t.rnd = s.rnd ∧ t.draws = s.draws ∧ t.events = s.events.tail ∧ t.reports = s.reports

/-- The state right after reset: PC = 0x200 and a framebuffer all false, as the source states; FAULT = 0 and SP = 0 (the spec's
decisions D3 and D6, logs 12 and 6); the canonical glyph A at 0x032 (decision D8, log 7) (10_state.md R23, 20_memory.md R46). -/
def Obligations.ResetStateStartsAtRomBase : Prop :=
  State.reset.pc = 0x0200 ∧ (∀ tx ty, State.reset.getPixel tx ty = false) ∧ State.reset.fault = false ∧ State.reset.sp.val = 0 ∧
  State.reset.mem.readBytes 0x032 5 = [0xF0, 0x90, 0xF0, 0x90, 0x90]

/-- A ROM image of more than 3584 bytes is refused: the machine is not constructed (70_reset_and_hazards.md R173, the spec's
decision D19, log 9). -/
def Obligations.OversizeRomIsRefused : Prop :=
  ∀ (s : State) (rom : List Byte), s.nextEvent = .reset rom → 3584 < rom.length →
    step s = .refused (.malformedRom rom.length)

/-- Every step has a next state, but for a reset with an oversize image: no instruction is refused, no fault stops the model
(30_encoding.md R63, 40_cycle.md R80; that a fatal error is a next state is the model's choice, log 12). -/
def Obligations.EveryStepAnswersButOversizeReset : Prop :=
  ∀ s : State, (∃ t, step s = .next t) ∨
    ∃ rom, s.nextEvent = .reset rom ∧ 3584 < rom.length ∧ step s = .refused (.malformedRom rom.length)

/-! ### Invariants and whole-machine rules -/

/-- The invariants of 10_state.md R24 hold right after reset (CAUSE and FAULT: decisions D3 and D5, log 12). -/
def Obligations.InvariantHoldsAtReset : Prop := State.reset.Inv

/-- Every step keeps memory canonical (addresses rising, below 4096, no cell equal to its reset byte) and CAUSE = 0 iff FAULT = 0
(10_state.md R24; log 12). -/
def Obligations.StepKeepsInvariant : Prop :=
  ∀ s t : State, s.Inv → step s = .next t → t.Inv

/-- Every step keeps PC at most 0x10FE and every valid stack entry at most 0x1000: no PC addition ever wraps (40_cycle.md R87). -/
def Obligations.StepKeepsPcAndStackBounds : Prop :=
  ∀ s t : State, s.PcBounded → step s = .next t → t.PcBounded

/-- Every state that a reset and any schedule of steps, ticks, key changes and resets can reach meets the invariants of
10_state.md R24 and the bounds of 40_cycle.md R87; FAULT and CAUSE, which the first speaks of, are the spec's decisions D3 and D5
(log 12). -/
def Obligations.ReachableStatesMeetInvariants : Prop :=
  ∀ s : State, Reachable s → s.Inv ∧ s.PcBounded

/-- An instruction that raises a fatal error writes FAULT and CAUSE (and reports the error) and nothing else: no partial effect
(60_exceptions.md R156, R157, the spec's decisions D3 and D4, logs 12 and 13). -/
def Obligations.FatalErrorsArePrecise : Prop :=
  ∀ (i : Instr) (s t : State), s.fault = false → exec i s = .next t → t.fault = true →
    ∃ f, t = { s with fault := true, cause := causeCode f, reports := s.reports ++ [.fatalError f] }

/-- An instruction raises a fatal error exactly when its one check says so, with the code of its kind (60_exceptions.md R150 to
R153; the codes are the spec's decision D5, log 12). -/
def Obligations.FatalErrorsExactlyWhenListed : Prop :=
  ∀ (i : Instr) (s t : State), s.fault = false → exec i s = .next t →
    (t.fault = true ↔ fatalCondition i s) ∧
    (t.fault = true → t.cause = match i with
      | .call _ => 2
      | .ret => 3
      | _ => 1)

/-- While FAULT = 1 a `step` request changes nothing and reports nothing, and no other event but reset changes any core state but
the timers, so nothing but reset leaves a fault (40_cycle.md R86, 10_state.md R17, 60_exceptions.md R159; the spec's decisions D3
and D15, log 12). -/
def Obligations.OnlyResetLeavesFault : Prop :=
  ∀ s : State, s.fault = true →
    (s.nextEvent = .step → step s = .next { s with events := s.events.tail }) ∧
    ((∀ rom, s.nextEvent ≠ .reset rom) → ∃ t, step s = .next t ∧
      t = { s with dt := t.dt, st := t.st, keys := t.keys, rnd := t.rnd, events := s.events.tail })

/-- Memory changes only by `Fx33`, `Fx55` and reset (20_memory.md R44, R55, 70_reset_and_hazards.md R179). -/
def Obligations.MemoryChangesOnlyByStores : Prop :=
  ∀ s t : State, step s = .next t → t.mem ≠ s.mem →
    (∃ rom, s.nextEvent = .reset rom) ∨
    (s.Ready ∧ ∃ x, decode s.fetchWord = .ldBcd x ∨ decode s.fetchWord = .stRegs x)

/-- The framebuffer changes only by `00E0`, `Dxyn` and reset (44_display.md R137). -/
def Obligations.FramebufferChangesOnlyByDisplay : Prop :=
  ∀ s t : State, step s = .next t → t.fb ≠ s.fb →
    (∃ rom, s.nextEvent = .reset rom) ∨
    (s.Ready ∧ (decode s.fetchWord = .cls ∨ ∃ x y n, decode s.fetchWord = .drw x y n))

/-- I is written by `Annn`, `Fx1E`, `Fx29` only; the call stack by `2nnn`, `00EE` only; DT by `Fx15`, ST by `Fx18` only, of all
instructions (10_state.md R12, R14, R15, R16). -/
def Obligations.SpecialRegistersHaveTheirWriters : Prop :=
  ∀ (i : Instr) (s t : State), exec i s = .next t →
    (t.ireg ≠ s.ireg → (∃ nnn, i = .ldI nnn) ∨ ∃ x, i = .addI x ∨ i = .ldFont x) ∧
    (t.stk ≠ s.stk → ∃ nnn, i = .call nnn) ∧
    (t.sp ≠ s.sp → (∃ nnn, i = .call nnn) ∨ i = .ret) ∧
    (t.dt ≠ s.dt → ∃ x, i = .ldDtVx x) ∧
    (t.st ≠ s.st → ∃ x, i = .ldStVx x)

/-- The frame of the register file: an instruction changes no general register but those the table of 10_state.md R10 lists. -/
def Obligations.GeneralRegistersHaveTheirWriters : Prop :=
  ∀ (i : Instr) (s t : State) (y : Nibble), exec i s = .next t → ¬ mayWriteV i y → t.getV y = s.getV y

/-- No instruction touches the driver's inputs: the keys and the schedule never, the supplied or drawn random byte only by `Cxkk`
(10_state.md R20, R27, R28; logs 1 to 3). -/
def Obligations.InstructionsLeaveDriverInputs : Prop :=
  ∀ (i : Instr) (s t : State), exec i s = .next t →
    t.keys = s.keys ∧ t.events = s.events ∧
    ((t.rnd ≠ s.rnd ∨ t.draws ≠ s.draws) → ∃ x kk, i = .rnd x kk)

/-- A cycle delivers exactly one `diag` record, the address and the word, when the word is unknown, and none otherwise
(10_state.md R30, 60_exceptions.md R154; the record's content is the spec's decision D12, log 4). -/
def Obligations.OneDiagRecordPerUnknownWord : Prop :=
  ∀ s t : State, s.Ready → step s = .next t →
    t.diagRecords = s.diagRecords ++ match decode s.fetchWord with
      | .unknown _ => [(s.pc, s.fetchWord)]
      | _ => []

/-- What has been reported to the host influences nothing: a run with earlier reports in front is the same run with those
reports in front (60_exceptions.md R154: the core does not count, queue or remember the events; log 4). -/
def Obligations.ReportsAreNeverRead : Prop :=
  ∀ (s : State) (l : List Report),
    step { s with reports := l ++ s.reports } =
      match step s with
      | .next t => .next { t with reports := l ++ t.reports }
      | .fault f => .fault f
      | .refused r => .refused r

/-- ST is never read by an instruction: changing it changes nothing of an instruction's result but ST itself
(10_state.md R16, 45_keypad_timers.md R145). -/
def Obligations.SoundTimerIsNeverRead : Prop :=
  ∀ (i : Instr) (s t : State) (b : Byte), exec i s = .next t →
    ∃ c, exec i { s with st := b } = .next { t with st := c } ∧ (t.st = s.st → c = b ∨ ∃ x, i = .ldStVx x)

/-- Equal readings are equal data: two canonical memories that read alike at every address are the same list, so that comparing
states compares memories (20_memory.md R40, R45). -/
def Obligations.CanonicalMemoriesAreDeterminedByReads : Prop :=
  ∀ m m' : Memory, m.wf → m'.wf → (∀ a, m.read a = m'.read a) → m = m'

/-! ### Control transfer -/

/-- `1nnn`: PC <- nnn; `Bnnn`: PC <- (V0 + nnn) mod 65536, not reduced modulo 4096; nothing else
(41_control_flow.md R91, R97). -/
def Obligations.JumpsLoadPc : Prop :=
  ∀ (nnn : Addr12) (s : State),
    decode (packNNN 0x1 nnn) = .jp nnn ∧ decode (packNNN 0xB nnn) = .jpV0 nnn ∧
    (∃ t, exec (.jp nnn) s = .next t ∧ t.pc.toNat = nnn.toNat ∧ t = { s with pc := t.pc }) ∧
    (∃ t, exec (.jpV0 nnn) s = .next t ∧ t.pc.toNat = ((s.getV 0x0).toNat + nnn.toNat) % 65536 ∧ t = { s with pc := t.pc })

/-- `2nnn`: with room, the post-advance PC is pushed and PC <- nnn; with a full stack, `StackOverflow` and nothing else
(41_control_flow.md R92; stack layout, latch and code are the spec's decisions D17, D3, D5, logs 12 and 17; the reported address
is computed as PC - 2, log 19). -/
def Obligations.CallPushesOrOverflows : Prop :=
  ∀ (nnn : Addr12) (s : State),
    (s.sp.val < 16 → ∃ t, exec (.call nnn) s = .next t ∧
      t.sp.val = s.sp.val + 1 ∧ t.pc.toNat = nnn.toNat ∧
      (∀ k : Fin 16, t.stk[k] = if k.val = s.sp.val then s.pc else s.stk[k]) ∧
      t = { s with pc := t.pc, sp := t.sp, stk := t.stk }) ∧
    (s.sp.val = 16 → exec (.call nnn) s = .next { s with
      fault := true, cause := 2, reports := s.reports ++ [.fatalError (.stackOverflow (s.pc - 2))] })

/-- `00EE`: with a valid entry, the most recent one goes to PC; with an empty stack, `StackUnderflow` and nothing else
(41_control_flow.md R90; decisions D17, D3, D5, logs 12 and 17; the reported address is computed as PC - 2, log 19). -/
def Obligations.ReturnPopsOrUnderflows : Prop :=
  ∀ s : State,
    (0 < s.sp.val → ∃ t, exec .ret s = .next t ∧
      t.sp.val + 1 = s.sp.val ∧ (∀ k : Fin 16, k.val + 1 = s.sp.val → t.pc = s.stk[k]) ∧
      t = { s with pc := t.pc, sp := t.sp }) ∧
    (s.sp.val = 0 → exec .ret s = .next { s with
      fault := true, cause := 3, reports := s.reports ++ [.fatalError (.stackUnderflow (s.pc - 2))] })

/-- "`CALL nnn` followed immediately by `RET` returns PC to exactly the instruction following the CALL": two steps, the call at
`s.pc` and the return at its target, end at `s.pc + 2` with the stack as deep as before (41_control_flow.md R90, R92). -/
def Obligations.CallThenReturnComesBack : Prop :=
  ∀ (s t : State) (nnn : Addr12), s.Ready → decode s.fetchWord = .call nnn → s.sp.val < 16 → step s = .next t →
    t.Ready → decode t.fetchWord = .ret →
    ∃ u, step t = .next u ∧ u.pc = s.pc + 2 ∧ u.sp = s.sp ∧ u.v = s.v ∧ u.mem = s.mem ∧ u.fault = false

/-- `3xkk` and `4xkk`: PC moves by 2 more exactly when V[x] equals, respectively differs from, kk; nothing else changes
(41_control_flow.md R93, R94). -/
def Obligations.SkipOnImmediate : Prop :=
  ∀ (x : Nibble) (kk : Byte) (s : State),
    decode (packXKK 0x3 x kk) = .seImm x kk ∧ decode (packXKK 0x4 x kk) = .sneImm x kk ∧
    (∃ t, exec (.seImm x kk) s = .next t ∧ t = { s with pc := t.pc } ∧
      t.pc.toNat = if s.getV x = kk then (s.pc.toNat + 2) % 65536 else s.pc.toNat) ∧
    (∃ t, exec (.sneImm x kk) s = .next t ∧ t = { s with pc := t.pc } ∧
      t.pc.toNat = if s.getV x = kk then s.pc.toNat else (s.pc.toNat + 2) % 65536)

/-- `5xy0` and `9xy0`: as the immediate skips, on two registers; x = y always, respectively never, skips
(41_control_flow.md R95, R96). -/
def Obligations.SkipOnRegisters : Prop :=
  ∀ (x y : Nibble) (s : State),
    decode (packXYN 0x5 x y 0x0) = .seReg x y ∧ decode (packXYN 0x9 x y 0x0) = .sneReg x y ∧
    (∃ t, exec (.seReg x y) s = .next t ∧ t = { s with pc := t.pc } ∧
      t.pc.toNat = if s.getV x = s.getV y then (s.pc.toNat + 2) % 65536 else s.pc.toNat) ∧
    (∃ t, exec (.sneReg x y) s = .next t ∧ t = { s with pc := t.pc } ∧
      t.pc.toNat = if s.getV x = s.getV y then s.pc.toNat else (s.pc.toNat + 2) % 65536)

/-- The jump to itself changes no state from one cycle to the next (70_reset_and_hazards.md R174, 41_control_flow.md R91). -/
def Obligations.JumpToSelfSpins : Prop :=
  ∀ s : State, s.Spinning → s.nextEvent = .step → step s = .next { s with events := s.events.tail }

/-! ### Registers: load, arithmetic, logic, shift, random -/

/-- `6xkk` and `8xy0`: V[x] <- kk, V[x] <- V[y]; no flag, nothing else (42_alu.md R101, R103). -/
def Obligations.LoadsWriteOnlyVx : Prop :=
  ∀ (x y : Nibble) (kk : Byte) (s : State),
    decode (packXKK 0x6 x kk) = .ldImm x kk ∧ decode (packXYN 0x8 x y 0x0) = .ldReg x y ∧
    (∃ t, exec (.ldImm x kk) s = .next t ∧ t = { s with v := t.v } ∧
      ∀ r, t.getV r = if r = x then kk else s.getV r) ∧
    (∃ t, exec (.ldReg x y) s = .next t ∧ t = { s with v := t.v } ∧
      ∀ r, t.getV r = if r = x then s.getV y else s.getV r)

/-- `7xkk`: the sum modulo 256 in V[x]; VF is not written but as the destination (42_alu.md R102). -/
def Obligations.AddImmediateWrapsWithoutFlag : Prop :=
  ∀ (x : Nibble) (kk : Byte) (s : State),
    decode (packXKK 0x7 x kk) = .addImm x kk ∧
    ∃ t, exec (.addImm x kk) s = .next t ∧ t = { s with v := t.v } ∧
      (t.getV x).toNat = ((s.getV x).toNat + kk.toNat) % 256 ∧ ∀ r, r ≠ x → t.getV r = s.getV r

/-- `8xy1`, `8xy2`, `8xy3`: OR, AND, XOR bit by bit in V[x]; VF is not written but as the destination (42_alu.md R104 to R106). -/
def Obligations.LogicIsBitwiseWithoutFlag : Prop :=
  ∀ (x y : Nibble) (s : State),
    decode (packXYN 0x8 x y 0x1) = .orReg x y ∧ decode (packXYN 0x8 x y 0x2) = .andReg x y ∧
    decode (packXYN 0x8 x y 0x3) = .xorReg x y ∧
    (∃ t, exec (.orReg x y) s = .next t ∧ t = { s with v := t.v } ∧ (∀ r, r ≠ x → t.getV r = s.getV r) ∧
      ∀ k, k < 8 → (t.getV x).getLsbD k = ((s.getV x).getLsbD k || (s.getV y).getLsbD k)) ∧
    (∃ t, exec (.andReg x y) s = .next t ∧ t = { s with v := t.v } ∧ (∀ r, r ≠ x → t.getV r = s.getV r) ∧
      ∀ k, k < 8 → (t.getV x).getLsbD k = ((s.getV x).getLsbD k && (s.getV y).getLsbD k)) ∧
    (∃ t, exec (.xorReg x y) s = .next t ∧ t = { s with v := t.v } ∧ (∀ r, r ≠ x → t.getV r = s.getV r) ∧
      ∀ k, k < 8 → (t.getV x).getLsbD k = ((s.getV x).getLsbD k ^^ (s.getV y).getLsbD k))

/-- `8xy4`: the sum modulo 256 in V[x], and VF = 1 iff it exceeds 255 (42_alu.md R107); for x = F the flag is what VF holds, the
spec's own decision D2 (log 11). -/
def Obligations.AddSetsCarry : Prop :=
  ∀ (x y : Nibble) (s : State),
    ∃ t, exec (.addReg x y) s = .next t ∧ t = { s with v := t.v } ∧
      (t.getV 0xF).toNat = (if (s.getV x).toNat + (s.getV y).toNat > 255 then 1 else 0) ∧
      (x ≠ 0xF → (t.getV x).toNat = ((s.getV x).toNat + (s.getV y).toNat) % 256) ∧
      ∀ r, r ≠ x → r ≠ 0xF → t.getV r = s.getV r

/-- `8xy5` and `8xy7`: the difference modulo 256 in V[x], and VF = 1 iff the minuend is strictly greater, so 0 for equal operands
(42_alu.md R108, R110); for x = F the flag wins, the spec's own decision D2 (log 11). -/
def Obligations.SubtractSetsStrictlyGreater : Prop :=
  ∀ (x y : Nibble) (s : State),
    (∃ t, exec (.subReg x y) s = .next t ∧ t = { s with v := t.v } ∧
      (t.getV 0xF).toNat = (if (s.getV x).toNat > (s.getV y).toNat then 1 else 0) ∧
      (x ≠ 0xF → (t.getV x).toNat = ((s.getV x).toNat + 256 - (s.getV y).toNat) % 256) ∧
      ∀ r, r ≠ x → r ≠ 0xF → t.getV r = s.getV r) ∧
    (∃ t, exec (.subnReg x y) s = .next t ∧ t = { s with v := t.v } ∧
      (t.getV 0xF).toNat = (if (s.getV y).toNat > (s.getV x).toNat then 1 else 0) ∧
      (x ≠ 0xF → (t.getV x).toNat = ((s.getV y).toNat + 256 - (s.getV x).toNat) % 256) ∧
      ∀ r, r ≠ x → r ≠ 0xF → t.getV r = s.getV r)

/-- `8xy6` and `8xyE`: V[x] shifted by one, the bit shifted out in VF, V[y] neither read nor written (42_alu.md R109, R111); for
x = F the flag wins, the spec's own decision D2 (log 11). -/
def Obligations.ShiftsMoveOutOneBit : Prop :=
  ∀ (x y : Nibble) (s : State),
    (∃ t, exec (.shr x y) s = .next t ∧ t = { s with v := t.v } ∧
      (t.getV 0xF).toNat = (s.getV x).toNat % 2 ∧
      (x ≠ 0xF → (t.getV x).toNat = (s.getV x).toNat / 2) ∧
      ∀ r, r ≠ x → r ≠ 0xF → t.getV r = s.getV r) ∧
    (∃ t, exec (.shl x y) s = .next t ∧ t = { s with v := t.v } ∧
      (t.getV 0xF).toNat = (s.getV x).toNat / 128 ∧
      (x ≠ 0xF → (t.getV x).toNat = (s.getV x).toNat * 2 % 256) ∧
      ∀ r, r ≠ x → r ≠ 0xF → t.getV r = s.getV r)

/-- `Cxkk`: V[x] is the random byte masked by kk. A byte the driver has supplied is used once; otherwise the byte is a free value,
of which only V[x] AND NOT kk = 0 can be said (42_alu.md R112, 10_state.md R28; the input is OPEN in the spec, D13, log 3). -/
def Obligations.RandomByteIsMasked : Prop :=
  ∀ (x : Nibble) (kk : Byte) (s : State),
    ∃ t, exec (.rnd x kk) s = .next t ∧
      (∀ k, k < 8 → kk.getLsbD k = false → (t.getV x).getLsbD k = false) ∧
      (∀ b, s.rnd = some b → (∀ k, k < 8 → (t.getV x).getLsbD k = (b.getLsbD k && kk.getLsbD k)) ∧ t.draws = s.draws) ∧
      (s.rnd = none → t.getV x = Config.freeRnd s.draws &&& kk ∧ t.draws = s.draws + 1) ∧
      t.rnd = none ∧ (∀ r, r ≠ x → t.getV r = s.getV r) ∧
      t = { s with v := t.v, rnd := t.rnd, draws := t.draws }

/-! ### Address register and memory -/

/-- `Annn`: I <- nnn, nothing else (43_address_memory.md R120). -/
def Obligations.LoadAddressRegister : Prop :=
  ∀ (nnn : Addr12) (s : State),
    decode (packNNN 0xA nnn) = .ldI nnn ∧
    ∃ t, exec (.ldI nnn) s = .next t ∧ t.ireg.toNat = nnn.toNat ∧ t = { s with ireg := t.ireg }

/-- `Fx1E`: I is the sum modulo 4096 (the spec's own decision D1, log 10), VF = 1 iff the unmasked sum exceeds 0xFFF
(43_address_memory.md R121); for x = F the addend is the old VF and VF ends as the flag, the spec's own decision D2 (log 11). -/
def Obligations.AddToAddressRegisterWraps : Prop :=
  ∀ (x : Nibble) (s : State),
    ∃ t, exec (.addI x) s = .next t ∧
      t.ireg.toNat = (s.ireg.toNat + (s.getV x).toNat) % 4096 ∧
      (t.getV 0xF).toNat = (if s.ireg.toNat + (s.getV x).toNat > 0xFFF then 1 else 0) ∧
      (∀ r, r ≠ 0xF → t.getV r = s.getV r) ∧ t = { s with v := t.v, ireg := t.ireg }

/-- `Fx29`: I <- 5 * d, d the low four bits of V[x] (43_address_memory.md R122; the low bits and the placing are the spec's own
decisions D9 and D8, logs 14 and 7). -/
def Obligations.GlyphAddressIsFiveTimesDigit : Prop :=
  ∀ (x : Nibble) (s : State),
    ∃ t, exec (.ldFont x) s = .next t ∧ t.ireg.toNat = 5 * ((s.getV x).toNat % 16) ∧ t = { s with ireg := t.ireg }

/-- `Fx33`: the three decimal digits of V[x] at EA(0), EA(1), EA(2), every other byte and everything else unchanged; if EA(2) does
not exist, `OutOfBoundsMemoryAccess` and no byte written (43_address_memory.md R123, R126; decisions D3 to D5, logs 12, 13). -/
def Obligations.StoreBcdDigits : Prop :=
  ∀ (x : Nibble) (s : State), s.mem.wf →
    (s.ea 2 < 4096 → ∃ t, exec (.ldBcd x) s = .next t ∧
      (t.readMem (s.ea 0)).toNat = (s.getV x).toNat / 100 ∧
      (t.readMem (s.ea 1)).toNat = (s.getV x).toNat / 10 % 10 ∧
      (t.readMem (s.ea 2)).toNat = (s.getV x).toNat % 10 ∧
      (∀ a, a < s.ea 0 ∨ s.ea 2 < a → t.readMem a = s.readMem a) ∧ t = { s with mem := t.mem }) ∧
    (4096 ≤ s.ea 2 → exec (.ldBcd x) s = .next { s with
      fault := true, cause := 1, reports := s.reports ++ [.fatalError (.outOfBoundsMemoryAccess (s.ea 2))] })

/-- `Fx55`: V[k] at EA(k) for every k up to x, every other byte and everything else unchanged, I included; if EA(x) does not
exist, `OutOfBoundsMemoryAccess` and no byte written (43_address_memory.md R124, R126; decisions D3 to D5, logs 12, 13). -/
def Obligations.StoreRegistersUpToX : Prop :=
  ∀ (x : Nibble) (s : State), s.mem.wf →
    (s.ea x.toNat < 4096 → ∃ t, exec (.stRegs x) s = .next t ∧
      (∀ k : Nibble, k.toNat ≤ x.toNat → t.readMem (s.ea k.toNat) = s.getV k) ∧
      (∀ a, a < s.ea 0 ∨ s.ea x.toNat < a → t.readMem a = s.readMem a) ∧ t = { s with mem := t.mem }) ∧
    (4096 ≤ s.ea x.toNat → exec (.stRegs x) s = .next { s with
      fault := true, cause := 1, reports := s.reports ++ [.fatalError (.outOfBoundsMemoryAccess (s.ea x.toNat))] })

/-- `Fx65`: V[k] <- the byte at EA(k) for every k up to x, the other registers and everything else unchanged, I and memory
included; if EA(x) does not exist, `OutOfBoundsMemoryAccess` and no register written (43_address_memory.md R125, R126; decisions
D3 to D5, logs 12, 13). -/
def Obligations.LoadRegistersUpToX : Prop :=
  ∀ (x : Nibble) (s : State),
    (s.ea x.toNat < 4096 → ∃ t, exec (.ldRegs x) s = .next t ∧
      (∀ k : Nibble, t.getV k = if k.toNat ≤ x.toNat then s.readMem (s.ea k.toNat) else s.getV k) ∧
      t = { s with v := t.v }) ∧
    (4096 ≤ s.ea x.toNat → exec (.ldRegs x) s = .next { s with
      fault := true, cause := 1, reports := s.reports ++ [.fatalError (.outOfBoundsMemoryAccess (s.ea x.toNat))] })

/-- A byte stored by `Fx55` or `Fx33` is seen by the very next fetch that reads its address (20_memory.md R52): PC stays
post-advance, and each of the two bytes of the word then fetched at it is the stored byte where the stored range EA(0) to EA(x),
respectively EA(0) to EA(2), covers its address, and the byte memory held before where it does not; any overlap, none included. -/
def Obligations.NextFetchSeesTheStore : Prop :=
  ∀ (x : Nibble) (s : State), s.mem.wf →
    let afterRegs : Nat → Byte := fun a =>
      if s.ea 0 ≤ a ∧ a ≤ s.ea x.toNat then s.getV (BitVec.ofNat 4 (a - s.ea 0)) else s.readMem a
    let afterBcd : Nat → Nat := fun a =>
      if a = s.ea 0 then (s.getV x).toNat / 100
      else if a = s.ea 1 then (s.getV x).toNat / 10 % 10
      else if a = s.ea 2 then (s.getV x).toNat % 10
      else (s.readMem a).toNat
    (s.ea x.toNat < 4096 → ∃ t, exec (.stRegs x) s = .next t ∧ t.pc = s.pc ∧
      t.fetchWord.toNat = (afterRegs s.pc.toNat).toNat * 256 + (afterRegs (s.pc.toNat + 1)).toNat) ∧
    (s.ea 2 < 4096 → ∃ t, exec (.ldBcd x) s = .next t ∧ t.pc = s.pc ∧
      t.fetchWord.toNat = afterBcd s.pc.toNat * 256 + afterBcd (s.pc.toNat + 1))

/-! ### Display -/

/-- `00E0`: all 2048 cells 0, nothing else (44_display.md R130). -/
def Obligations.ClearScreenClearsEveryCell : Prop :=
  decode 0x00E0 = .cls ∧
  ∀ s : State, ∃ t, exec .cls s = .next t ∧ (∀ tx ty, t.getPixel tx ty = false) ∧ t = { s with fb := t.fb }

/-- `Dxyn`, pixel by pixel: a cell on which a 1 bit of the sprite lands, wrapped on both axes, is toggled, every other cell stays;
VF = 1 iff a 1 bit landed on a set cell (44_display.md R131, R132); with n = 0 nothing is drawn and VF = 0. For x or y = F the
coordinate is the old VF, the spec's own decision D2 (log 11). -/
def Obligations.DrawTogglesTheSpritePixels : Prop :=
  ∀ (x y n : Nibble) (s : State), s.ireg.toNat + n.toNat ≤ 4096 →
    let lit : Fin 64 → Fin 32 → Prop := fun tx ty =>
      ∃ i j, i < n.toNat ∧ j < 8 ∧ (s.readMem (s.ireg.toNat + i)).getLsbD (7 - j) = true ∧
        tx.val = ((s.getV x).toNat + j) % 64 ∧ ty.val = ((s.getV y).toNat + i) % 32
    ∃ t, exec (.drw x y n) s = .next t ∧
      (∀ tx ty, (lit tx ty → t.getPixel tx ty = !s.getPixel tx ty) ∧ (¬ lit tx ty → t.getPixel tx ty = s.getPixel tx ty)) ∧
      ((∃ tx ty, lit tx ty ∧ s.getPixel tx ty = true) → t.getV 0xF = 1) ∧
      ((¬ ∃ tx ty, lit tx ty ∧ s.getPixel tx ty = true) → t.getV 0xF = 0) ∧
      (∀ r, r ≠ 0xF → t.getV r = s.getV r) ∧ t = { s with v := t.v, fb := t.fb }

/-- Drawing the same sprite twice at the same place restores the framebuffer; the first draw collides iff it clears a cell, the
second iff the first set one (44_display.md R134). -/
def Obligations.DrawingTwiceRestores : Prop :=
  ∀ (vx vy : Byte) (sprite : List Byte) (fb : Framebuffer), sprite.length ≤ 15 →
    let once := draw vx vy sprite fb
    let twice := draw vx vy sprite once.1
    twice.1 = fb ∧
    (once.2 = true ↔ ∃ tx ty, readPixel fb tx ty = true ∧ readPixel once.1 tx ty = false) ∧
    (twice.2 = true ↔ ∃ tx ty, readPixel fb tx ty = false ∧ readPixel once.1 tx ty = true)

/-- The host's row-major read-out has 2048 cells, cell ty*64 + tx being the pixel at column tx, row ty (44_display.md R136). -/
def Obligations.FrameIsRowMajor : Prop :=
  ∀ s : State, s.frame.length = 2048 ∧
    ∀ (tx : Fin 64) (ty : Fin 32), s.frame[ty.val * 64 + tx.val]? = some (s.getPixel tx ty)

/-! ### Keypad, timers, unknown -/

/-- `Ex9E` and `ExA1`: skip when the key of the low four bits of V[x] is down, respectively up, so exactly one of the two skips;
nothing else changes (45_keypad_timers.md R140, R141; the low bits are the spec's own decision D10, log 14). -/
def Obligations.SkipOnKeyState : Prop :=
  ∀ (x : Nibble) (s : State),
    let down := s.keys.getLsbD ((s.getV x).toNat % 16)
    (∃ t, exec (.skp x) s = .next t ∧ t = { s with pc := t.pc } ∧
      t.pc.toNat = if down = true then (s.pc.toNat + 2) % 65536 else s.pc.toNat) ∧
    (∃ t, exec (.sknp x) s = .next t ∧ t = { s with pc := t.pc } ∧
      t.pc.toNat = if down = true then s.pc.toNat else (s.pc.toNat + 2) % 65536)

/-- `Fx0A` with a key down: V[x] <- the smallest index of a key that is down, PC stays post-advance (45_keypad_timers.md R142). -/
def Obligations.WaitForKeyTakesLowestKey : Prop :=
  ∀ (x k : Nibble) (s : State), s.keys.getLsbD k.toNat = true → (∀ j, j < k.toNat → s.keys.getLsbD j = false) →
    ∃ t, exec (.ldVxKey x) s = .next t ∧ (t.getV x).toNat = k.toNat ∧ (∀ r, r ≠ x → t.getV r = s.getV r) ∧
      t = { s with v := t.v }

/-- `Fx0A` with no key down: the whole cycle changes no core state, PC ends where it began (45_keypad_timers.md R142; that no mode
is stored is the spec's decision D21, log 24). -/
def Obligations.WaitForKeyRepeatsUnchanged : Prop :=
  ∀ s : State, s.AwaitingKey → s.nextEvent = .step → step s = .next { s with events := s.events.tail }

/-- `Fx07`, `Fx15`, `Fx18`: V[x] <- DT, DT <- V[x], ST <- V[x], nothing else (45_keypad_timers.md R143 to R145). -/
def Obligations.TimerRegistersMoveWhole : Prop :=
  ∀ (x : Nibble) (s : State),
    decode (packXKK 0xF x 0x07) = .ldVxDt x ∧ decode (packXKK 0xF x 0x15) = .ldDtVx x ∧
    decode (packXKK 0xF x 0x18) = .ldStVx x ∧
    (∃ t, exec (.ldVxDt x) s = .next t ∧ t = { s with v := t.v } ∧ ∀ r, t.getV r = if r = x then s.dt else s.getV r) ∧
    (∃ t, exec (.ldDtVx x) s = .next t ∧ t.dt = s.getV x ∧ t = { s with dt := t.dt }) ∧
    (∃ t, exec (.ldStVx x) s = .next t ∧ t.st = s.getV x ∧ t = { s with st := t.st })

/-- A word that fits no row of the table: the cycle reports (pc0, w), leaves PC at pc0 + 2 and changes nothing else (the second
clause: 40_cycle.md R85, 30_encoding.md R65). The record's content is the spec's decision D12, and it stands in State by log 4. The
first clause, that the instruction itself completes on every state, is the model's choice where `w` is a word of another row (log
21, DESIGN CHOICE), and it computes pc0 as the post-advance PC minus 2 (log 19, DEDUCED). -/
def Obligations.UnknownWordIsReportedNoOperation : Prop :=
  (∀ (w : Word) (s : State),
    exec (.unknown w) s = .next { s with reports := s.reports ++ [.unknownOpcode (s.pc - 2) w] }) ∧
  (∀ s : State, s.Ready → (∀ r ∈ opcodeRows, r.selects s.fetchWord = false) →
    step s = .next { s with
      pc := s.pc + 2, events := s.events.tail, reports := s.reports ++ [.unknownOpcode s.pc s.fetchWord] })
end

