-- ==== Sys2Proof/Laws/Memory.lean ====
section
/-! SUPPORT. The laws of memory: read after write, the frame of a write, and that every operation keeps the canonical form. -/

namespace Sys2Proof.Machine

/-- A write leaves every other address alone. -/
theorem Memory.read_write_other (m : Memory) {a a' : Nat} (b : Byte) (h : a' ≠ a) :
    (m.write a b).read a' = m.read a' := by
  induction m with
  | nil =>
    simp only [Memory.write]
    split <;> simp [Memory.read, h.symm]
  | cons c m ih =>
    obtain ⟨k, c⟩ := c
    simp only [Memory.write]
    split
    · split <;> simp [Memory.read, h.symm]
    · split
      · subst_vars
        split <;> simp [Memory.read, h.symm]
      · simp [Memory.read, ih]

/-- An address below every listed one reads as the reset contents. -/
theorem Memory.read_of_forall_lt (m : Memory) {a : Nat} (h : ∀ c ∈ m, a < c.1) : m.read a = resetByte a := by
  induction m with
  | nil => rfl
  | cons c m ih =>
    obtain ⟨k, c⟩ := c
    have hk : k ≠ a := by have := h (k, c) (by simp); simp at this; omega
    simp [Memory.read, hk, ih fun d hd => h d (by simp [hd])]

/-- In a memory whose addresses rise, a read after a write to the same address gives the value written. -/
theorem Memory.read_write_same (m : Memory) (h : m.Pairwise (fun c d => c.1 < d.1)) (a : Nat) (b : Byte) :
    (m.write a b).read a = b := by
  induction m with
  | nil =>
    simp only [Memory.write]
    split
    · simp [Memory.read, *]
    · simp [Memory.read]
  | cons c m ih =>
    obtain ⟨k, c⟩ := c
    rw [List.pairwise_cons] at h
    simp only [Memory.write]
    split
    · rename_i hlt
      split
      · rename_i hb
        rw [Memory.read_of_forall_lt, hb]
        rintro ⟨k', c'⟩ hc
        rcases List.mem_cons.1 hc with he | hm
        · cases he; exact hlt
        · exact lt_trans hlt (h.1 _ hm)
      · simp [Memory.read]
    · split
      · subst_vars
        split
        · rename_i hb
          rw [Memory.read_of_forall_lt, hb]
          exact fun d hd => h.1 d hd
        · simp [Memory.read]
      · rename_i h1 h2
        have : k ≠ a := fun e => h2 e.symm
        simp [Memory.read, this, ih h.2]

/-- Every address a write lists is the one written or was listed before. -/
theorem Memory.mem_write (m : Memory) {a : Nat} {b : Byte} {c : Host.Cell} (h : c ∈ m.write a b) :
    c ∈ m ∨ (c = (a, b) ∧ b ≠ resetByte a) := by
  induction m with
  | nil =>
    simp only [Memory.write] at h
    split at h
    · simp at h
    · exact .inr ⟨by simpa using h, ‹_›⟩
  | cons d m ih =>
    obtain ⟨k, d⟩ := d
    simp only [Memory.write] at h
    split at h
    · split at h
      · exact .inl h
      · rcases List.mem_cons.1 h with rfl | h
        · exact .inr ⟨rfl, ‹_›⟩
        · exact .inl h
    · split at h
      · split at h
        · exact .inl (List.mem_cons_of_mem _ h)
        · rcases List.mem_cons.1 h with rfl | h
          · exact .inr ⟨rfl, ‹_›⟩
          · exact .inl (List.mem_cons_of_mem _ h)
      · rcases List.mem_cons.1 h with rfl | h
        · exact .inl (by simp)
        · exact (ih h).imp_left (List.mem_cons_of_mem _)

/-- A write keeps the addresses rising. -/
theorem Memory.write_pairwise (m : Memory) (h : m.Pairwise (fun c d => c.1 < d.1)) (a : Nat) (b : Byte) :
    (m.write a b).Pairwise (fun c d => c.1 < d.1) := by
  induction m with
  | nil =>
    simp only [Memory.write]
    split <;> simp
  | cons c m ih =>
    obtain ⟨k, c⟩ := c
    have h' := h
    rw [List.pairwise_cons] at h
    simp only [Memory.write]
    split
    · rename_i hlt
      split
      · exact h'
      · refine List.pairwise_cons.2 ⟨fun d hd => ?_, h'⟩
        rcases List.mem_cons.1 hd with rfl | hd
        · exact hlt
        · exact lt_trans hlt (h.1 d hd)
    · split
      · subst_vars
        split
        · exact h.2
        · exact List.pairwise_cons.2 ⟨h.1, h.2⟩
      · refine List.pairwise_cons.2 ⟨fun d hd => ?_, ih h.2⟩
        rcases Memory.mem_write m hd with hd | ⟨rfl, -⟩
        · exact h.1 d hd
        · simp only; omega

/-- A write to an address that exists keeps the canonical form. -/
theorem Memory.write_wf (m : Memory) (h : m.wf) {a : Nat} (ha : a < Config.memSize) (b : Byte) : (m.write a b).wf := by
  refine ⟨m.write_pairwise h.1 a b, fun c hc => ?_⟩
  rcases m.mem_write hc with hc | ⟨rfl, hb⟩
  · exact h.2 c hc
  · exact ⟨ha, hb⟩

/-- Storing bytes that all lie below 4096 keeps the canonical form. -/
theorem Memory.writeBytes_wf (m : Memory) (h : m.wf) (base : Nat) (bs : List Byte)
    (hb : bs.length = 0 ∨ base + bs.length ≤ Config.memSize) : (m.writeBytes base bs).wf := by
  induction bs generalizing m base with
  | nil => exact h
  | cons b bs ih =>
    simp only [List.length_cons] at hb
    exact ih (m.write base b) (m.write_wf h (by omega) b) (base + 1) (by omega)

/-- Storing bytes leaves every address outside them alone. -/
theorem Memory.read_writeBytes_other (m : Memory) (base : Nat) (bs : List Byte) {a : Nat}
    (h : a < base ∨ base + bs.length ≤ a) : (m.writeBytes base bs).read a = m.read a := by
  induction bs generalizing m base with
  | nil => rfl
  | cons b bs ih =>
    simp only [List.length_cons] at h
    rw [Memory.writeBytes, ih _ _ (by omega), Memory.read_write_other _ _ (by omega)]

/-- Reading back the stored bytes. -/
theorem Memory.read_writeBytes_same (m : Memory) (h : m.Pairwise (fun c d => c.1 < d.1)) (base : Nat) (bs : List Byte)
    (k : Nat) (hk : k < bs.length) : (m.writeBytes base bs).read (base + k) = bs[k] := by
  induction bs generalizing m base k with
  | nil => simp at hk
  | cons b bs ih =>
    rw [Memory.writeBytes]
    cases k with
    | zero => rw [Memory.read_writeBytes_other _ _ _ (by omega)]; exact m.read_write_same h base b
    | succ k =>
      have := ih (m.write base b) (m.write_pairwise h base b) (base + 1) k (by simpa using hk)
      rw [show base + (k + 1) = base + 1 + k by omega, this]
      rfl

/-- A read at any address after a store of a sequence: the stored byte inside the range, the old byte outside. -/
theorem Memory.read_writeBytes (m : Memory) (h : m.Pairwise (fun c d => c.1 < d.1)) (base : Nat) (bs : List Byte) (a : Nat) :
    (m.writeBytes base bs).read a = if base ≤ a then bs.getD (a - base) (m.read a) else m.read a := by
  by_cases ha : base ≤ a ∧ a - base < bs.length
  · obtain ⟨k, rfl⟩ := Nat.exists_eq_add_of_le ha.1
    have hk : k < bs.length := by omega
    simp [m.read_writeBytes_same h base bs k hk, hk]
  · rw [m.read_writeBytes_other base bs (by omega)]
    split
    · rw [List.getD_eq_default _ _ (by omega)]
    · rfl

/-- A ROM image of legal length gives a canonical memory (10_state.md R23). -/
theorem Memory.ofRom_wf (rom : List Byte) (h : rom.length ≤ Config.romMax) : (Memory.ofRom rom).wf := by
  refine Memory.writeBytes_wf [] ⟨.nil, by simp⟩ _ rom (.inr ?_)
  simp only [Config.romBase, Config.romMax, Config.memSize] at *
  omega

end Sys2Proof.Machine
end

