-- ==== Sys2Proof/Laws/State.lean ====
section
/-! SUPPORT. What each update of the state does to each field: one lemma per field per update. -/

namespace Sys2Proof.Machine

@[simp] theorem memSize_eq : Config.memSize = 4096 := rfl

@[simp] theorem romMax_eq : Config.romMax = 3584 := rfl

@[simp] theorem romBase_eq : Config.romBase = 0x200 := rfl

variable (s : State)

@[simp] theorem State.setV_v (x : Nibble) (b : Byte) : (s.setV x b).v = s.v.set x.toNat b x.isLt := rfl
@[simp] theorem State.setV_ireg (x : Nibble) (b : Byte) : (s.setV x b).ireg = s.ireg := rfl
@[simp] theorem State.setV_pc (x : Nibble) (b : Byte) : (s.setV x b).pc = s.pc := rfl
@[simp] theorem State.setV_stk (x : Nibble) (b : Byte) : (s.setV x b).stk = s.stk := rfl
@[simp] theorem State.setV_sp (x : Nibble) (b : Byte) : (s.setV x b).sp = s.sp := rfl
@[simp] theorem State.setV_dt (x : Nibble) (b : Byte) : (s.setV x b).dt = s.dt := rfl
@[simp] theorem State.setV_st (x : Nibble) (b : Byte) : (s.setV x b).st = s.st := rfl
@[simp] theorem State.setV_fault (x : Nibble) (b : Byte) : (s.setV x b).fault = s.fault := rfl
@[simp] theorem State.setV_cause (x : Nibble) (b : Byte) : (s.setV x b).cause = s.cause := rfl
@[simp] theorem State.setV_mem (x : Nibble) (b : Byte) : (s.setV x b).mem = s.mem := rfl
@[simp] theorem State.setV_fb (x : Nibble) (b : Byte) : (s.setV x b).fb = s.fb := rfl
@[simp] theorem State.setV_keys (x : Nibble) (b : Byte) : (s.setV x b).keys = s.keys := rfl
@[simp] theorem State.setV_rnd (x : Nibble) (b : Byte) : (s.setV x b).rnd = s.rnd := rfl
@[simp] theorem State.setV_draws (x : Nibble) (b : Byte) : (s.setV x b).draws = s.draws := rfl
@[simp] theorem State.setV_events (x : Nibble) (b : Byte) : (s.setV x b).events = s.events := rfl
@[simp] theorem State.setV_reports (x : Nibble) (b : Byte) : (s.setV x b).reports = s.reports := rfl

@[simp] theorem State.setPc_v (t : Word) : (s.setPc t).v = s.v := rfl
@[simp] theorem State.setPc_ireg (t : Word) : (s.setPc t).ireg = s.ireg := rfl
@[simp] theorem State.setPc_pc (t : Word) : (s.setPc t).pc = t := rfl
@[simp] theorem State.setPc_stk (t : Word) : (s.setPc t).stk = s.stk := rfl
@[simp] theorem State.setPc_sp (t : Word) : (s.setPc t).sp = s.sp := rfl
@[simp] theorem State.setPc_dt (t : Word) : (s.setPc t).dt = s.dt := rfl
@[simp] theorem State.setPc_st (t : Word) : (s.setPc t).st = s.st := rfl
@[simp] theorem State.setPc_fault (t : Word) : (s.setPc t).fault = s.fault := rfl
@[simp] theorem State.setPc_cause (t : Word) : (s.setPc t).cause = s.cause := rfl
@[simp] theorem State.setPc_mem (t : Word) : (s.setPc t).mem = s.mem := rfl
@[simp] theorem State.setPc_fb (t : Word) : (s.setPc t).fb = s.fb := rfl
@[simp] theorem State.setPc_keys (t : Word) : (s.setPc t).keys = s.keys := rfl
@[simp] theorem State.setPc_rnd (t : Word) : (s.setPc t).rnd = s.rnd := rfl
@[simp] theorem State.setPc_draws (t : Word) : (s.setPc t).draws = s.draws := rfl
@[simp] theorem State.setPc_events (t : Word) : (s.setPc t).events = s.events := rfl
@[simp] theorem State.setPc_reports (t : Word) : (s.setPc t).reports = s.reports := rfl

@[simp] theorem State.advancePc_v : (s.advancePc).v = s.v := rfl
@[simp] theorem State.advancePc_ireg : (s.advancePc).ireg = s.ireg := rfl
@[simp] theorem State.advancePc_pc : (s.advancePc).pc = s.pc + 2 := rfl
@[simp] theorem State.advancePc_stk : (s.advancePc).stk = s.stk := rfl
@[simp] theorem State.advancePc_sp : (s.advancePc).sp = s.sp := rfl
@[simp] theorem State.advancePc_dt : (s.advancePc).dt = s.dt := rfl
@[simp] theorem State.advancePc_st : (s.advancePc).st = s.st := rfl
@[simp] theorem State.advancePc_fault : (s.advancePc).fault = s.fault := rfl
@[simp] theorem State.advancePc_cause : (s.advancePc).cause = s.cause := rfl
@[simp] theorem State.advancePc_mem : (s.advancePc).mem = s.mem := rfl
@[simp] theorem State.advancePc_fb : (s.advancePc).fb = s.fb := rfl
@[simp] theorem State.advancePc_keys : (s.advancePc).keys = s.keys := rfl
@[simp] theorem State.advancePc_rnd : (s.advancePc).rnd = s.rnd := rfl
@[simp] theorem State.advancePc_draws : (s.advancePc).draws = s.draws := rfl
@[simp] theorem State.advancePc_events : (s.advancePc).events = s.events := rfl
@[simp] theorem State.advancePc_reports : (s.advancePc).reports = s.reports := rfl

@[simp] theorem State.skip_v : (s.skip).v = s.v := rfl
@[simp] theorem State.skip_ireg : (s.skip).ireg = s.ireg := rfl
@[simp] theorem State.skip_pc : (s.skip).pc = s.pc + 2 := rfl
@[simp] theorem State.skip_stk : (s.skip).stk = s.stk := rfl
@[simp] theorem State.skip_sp : (s.skip).sp = s.sp := rfl
@[simp] theorem State.skip_dt : (s.skip).dt = s.dt := rfl
@[simp] theorem State.skip_st : (s.skip).st = s.st := rfl
@[simp] theorem State.skip_fault : (s.skip).fault = s.fault := rfl
@[simp] theorem State.skip_cause : (s.skip).cause = s.cause := rfl
@[simp] theorem State.skip_mem : (s.skip).mem = s.mem := rfl
@[simp] theorem State.skip_fb : (s.skip).fb = s.fb := rfl
@[simp] theorem State.skip_keys : (s.skip).keys = s.keys := rfl
@[simp] theorem State.skip_rnd : (s.skip).rnd = s.rnd := rfl
@[simp] theorem State.skip_draws : (s.skip).draws = s.draws := rfl
@[simp] theorem State.skip_events : (s.skip).events = s.events := rfl
@[simp] theorem State.skip_reports : (s.skip).reports = s.reports := rfl

@[simp] theorem State.setI_v (a : Addr12) : (s.setI a).v = s.v := rfl
@[simp] theorem State.setI_ireg (a : Addr12) : (s.setI a).ireg = a := rfl
@[simp] theorem State.setI_pc (a : Addr12) : (s.setI a).pc = s.pc := rfl
@[simp] theorem State.setI_stk (a : Addr12) : (s.setI a).stk = s.stk := rfl
@[simp] theorem State.setI_sp (a : Addr12) : (s.setI a).sp = s.sp := rfl
@[simp] theorem State.setI_dt (a : Addr12) : (s.setI a).dt = s.dt := rfl
@[simp] theorem State.setI_st (a : Addr12) : (s.setI a).st = s.st := rfl
@[simp] theorem State.setI_fault (a : Addr12) : (s.setI a).fault = s.fault := rfl
@[simp] theorem State.setI_cause (a : Addr12) : (s.setI a).cause = s.cause := rfl
@[simp] theorem State.setI_mem (a : Addr12) : (s.setI a).mem = s.mem := rfl
@[simp] theorem State.setI_fb (a : Addr12) : (s.setI a).fb = s.fb := rfl
@[simp] theorem State.setI_keys (a : Addr12) : (s.setI a).keys = s.keys := rfl
@[simp] theorem State.setI_rnd (a : Addr12) : (s.setI a).rnd = s.rnd := rfl
@[simp] theorem State.setI_draws (a : Addr12) : (s.setI a).draws = s.draws := rfl
@[simp] theorem State.setI_events (a : Addr12) : (s.setI a).events = s.events := rfl
@[simp] theorem State.setI_reports (a : Addr12) : (s.setI a).reports = s.reports := rfl

@[simp] theorem State.storeBytes_v (a : Nat) (bs : List Byte) : (s.storeBytes a bs).v = s.v := rfl
@[simp] theorem State.storeBytes_ireg (a : Nat) (bs : List Byte) : (s.storeBytes a bs).ireg = s.ireg := rfl
@[simp] theorem State.storeBytes_pc (a : Nat) (bs : List Byte) : (s.storeBytes a bs).pc = s.pc := rfl
@[simp] theorem State.storeBytes_stk (a : Nat) (bs : List Byte) : (s.storeBytes a bs).stk = s.stk := rfl
@[simp] theorem State.storeBytes_sp (a : Nat) (bs : List Byte) : (s.storeBytes a bs).sp = s.sp := rfl
@[simp] theorem State.storeBytes_dt (a : Nat) (bs : List Byte) : (s.storeBytes a bs).dt = s.dt := rfl
@[simp] theorem State.storeBytes_st (a : Nat) (bs : List Byte) : (s.storeBytes a bs).st = s.st := rfl
@[simp] theorem State.storeBytes_fault (a : Nat) (bs : List Byte) : (s.storeBytes a bs).fault = s.fault := rfl
@[simp] theorem State.storeBytes_cause (a : Nat) (bs : List Byte) : (s.storeBytes a bs).cause = s.cause := rfl
@[simp] theorem State.storeBytes_mem (a : Nat) (bs : List Byte) : (s.storeBytes a bs).mem = s.mem.writeBytes a bs := rfl
@[simp] theorem State.storeBytes_fb (a : Nat) (bs : List Byte) : (s.storeBytes a bs).fb = s.fb := rfl
@[simp] theorem State.storeBytes_keys (a : Nat) (bs : List Byte) : (s.storeBytes a bs).keys = s.keys := rfl
@[simp] theorem State.storeBytes_rnd (a : Nat) (bs : List Byte) : (s.storeBytes a bs).rnd = s.rnd := rfl
@[simp] theorem State.storeBytes_draws (a : Nat) (bs : List Byte) : (s.storeBytes a bs).draws = s.draws := rfl
@[simp] theorem State.storeBytes_events (a : Nat) (bs : List Byte) : (s.storeBytes a bs).events = s.events := rfl
@[simp] theorem State.storeBytes_reports (a : Nat) (bs : List Byte) : (s.storeBytes a bs).reports = s.reports := rfl

@[simp] theorem State.report_v (r : Report) : (s.report r).v = s.v := rfl
@[simp] theorem State.report_ireg (r : Report) : (s.report r).ireg = s.ireg := rfl
@[simp] theorem State.report_pc (r : Report) : (s.report r).pc = s.pc := rfl
@[simp] theorem State.report_stk (r : Report) : (s.report r).stk = s.stk := rfl
@[simp] theorem State.report_sp (r : Report) : (s.report r).sp = s.sp := rfl
@[simp] theorem State.report_dt (r : Report) : (s.report r).dt = s.dt := rfl
@[simp] theorem State.report_st (r : Report) : (s.report r).st = s.st := rfl
@[simp] theorem State.report_fault (r : Report) : (s.report r).fault = s.fault := rfl
@[simp] theorem State.report_cause (r : Report) : (s.report r).cause = s.cause := rfl
@[simp] theorem State.report_mem (r : Report) : (s.report r).mem = s.mem := rfl
@[simp] theorem State.report_fb (r : Report) : (s.report r).fb = s.fb := rfl
@[simp] theorem State.report_keys (r : Report) : (s.report r).keys = s.keys := rfl
@[simp] theorem State.report_rnd (r : Report) : (s.report r).rnd = s.rnd := rfl
@[simp] theorem State.report_draws (r : Report) : (s.report r).draws = s.draws := rfl
@[simp] theorem State.report_events (r : Report) : (s.report r).events = s.events := rfl
@[simp] theorem State.report_reports (r : Report) : (s.report r).reports = s.reports ++ [r] := rfl

@[simp] theorem State.takeFatal_v (f : Fault) : (s.takeFatal f).v = s.v := rfl
@[simp] theorem State.takeFatal_ireg (f : Fault) : (s.takeFatal f).ireg = s.ireg := rfl
@[simp] theorem State.takeFatal_pc (f : Fault) : (s.takeFatal f).pc = s.pc := rfl
@[simp] theorem State.takeFatal_stk (f : Fault) : (s.takeFatal f).stk = s.stk := rfl
@[simp] theorem State.takeFatal_sp (f : Fault) : (s.takeFatal f).sp = s.sp := rfl
@[simp] theorem State.takeFatal_dt (f : Fault) : (s.takeFatal f).dt = s.dt := rfl
@[simp] theorem State.takeFatal_st (f : Fault) : (s.takeFatal f).st = s.st := rfl
@[simp] theorem State.takeFatal_fault (f : Fault) : (s.takeFatal f).fault = true := rfl
@[simp] theorem State.takeFatal_cause (f : Fault) : (s.takeFatal f).cause = causeCode f := rfl
@[simp] theorem State.takeFatal_mem (f : Fault) : (s.takeFatal f).mem = s.mem := rfl
@[simp] theorem State.takeFatal_fb (f : Fault) : (s.takeFatal f).fb = s.fb := rfl
@[simp] theorem State.takeFatal_keys (f : Fault) : (s.takeFatal f).keys = s.keys := rfl
@[simp] theorem State.takeFatal_rnd (f : Fault) : (s.takeFatal f).rnd = s.rnd := rfl
@[simp] theorem State.takeFatal_draws (f : Fault) : (s.takeFatal f).draws = s.draws := rfl
@[simp] theorem State.takeFatal_events (f : Fault) : (s.takeFatal f).events = s.events := rfl
@[simp] theorem State.takeFatal_reports (f : Fault) : (s.takeFatal f).reports = s.reports ++ [.fatalError f] := rfl

@[simp] theorem State.setFlag_v (c : Bool) : (s.setFlag c).v = s.v.set vf.toNat (flagByte c) vf.isLt := rfl
@[simp] theorem State.setFlag_ireg (c : Bool) : (s.setFlag c).ireg = s.ireg := rfl
@[simp] theorem State.setFlag_pc (c : Bool) : (s.setFlag c).pc = s.pc := rfl
@[simp] theorem State.setFlag_stk (c : Bool) : (s.setFlag c).stk = s.stk := rfl
@[simp] theorem State.setFlag_sp (c : Bool) : (s.setFlag c).sp = s.sp := rfl
@[simp] theorem State.setFlag_dt (c : Bool) : (s.setFlag c).dt = s.dt := rfl
@[simp] theorem State.setFlag_st (c : Bool) : (s.setFlag c).st = s.st := rfl
@[simp] theorem State.setFlag_fault (c : Bool) : (s.setFlag c).fault = s.fault := rfl
@[simp] theorem State.setFlag_cause (c : Bool) : (s.setFlag c).cause = s.cause := rfl
@[simp] theorem State.setFlag_mem (c : Bool) : (s.setFlag c).mem = s.mem := rfl
@[simp] theorem State.setFlag_fb (c : Bool) : (s.setFlag c).fb = s.fb := rfl
@[simp] theorem State.setFlag_keys (c : Bool) : (s.setFlag c).keys = s.keys := rfl
@[simp] theorem State.setFlag_rnd (c : Bool) : (s.setFlag c).rnd = s.rnd := rfl
@[simp] theorem State.setFlag_draws (c : Bool) : (s.setFlag c).draws = s.draws := rfl
@[simp] theorem State.setFlag_events (c : Bool) : (s.setFlag c).events = s.events := rfl
@[simp] theorem State.setFlag_reports (c : Bool) : (s.setFlag c).reports = s.reports := rfl

@[simp] theorem State.setResultFlag_v (x : Nibble) (b : Byte) (c : Bool) : (s.setResultFlag x b c).v = (s.v.set x.toNat b x.isLt).set vf.toNat (flagByte c) vf.isLt := rfl
@[simp] theorem State.setResultFlag_ireg (x : Nibble) (b : Byte) (c : Bool) : (s.setResultFlag x b c).ireg = s.ireg := rfl
@[simp] theorem State.setResultFlag_pc (x : Nibble) (b : Byte) (c : Bool) : (s.setResultFlag x b c).pc = s.pc := rfl
@[simp] theorem State.setResultFlag_stk (x : Nibble) (b : Byte) (c : Bool) : (s.setResultFlag x b c).stk = s.stk := rfl
@[simp] theorem State.setResultFlag_sp (x : Nibble) (b : Byte) (c : Bool) : (s.setResultFlag x b c).sp = s.sp := rfl
@[simp] theorem State.setResultFlag_dt (x : Nibble) (b : Byte) (c : Bool) : (s.setResultFlag x b c).dt = s.dt := rfl
@[simp] theorem State.setResultFlag_st (x : Nibble) (b : Byte) (c : Bool) : (s.setResultFlag x b c).st = s.st := rfl
@[simp] theorem State.setResultFlag_fault (x : Nibble) (b : Byte) (c : Bool) : (s.setResultFlag x b c).fault = s.fault := rfl
@[simp] theorem State.setResultFlag_cause (x : Nibble) (b : Byte) (c : Bool) : (s.setResultFlag x b c).cause = s.cause := rfl
@[simp] theorem State.setResultFlag_mem (x : Nibble) (b : Byte) (c : Bool) : (s.setResultFlag x b c).mem = s.mem := rfl
@[simp] theorem State.setResultFlag_fb (x : Nibble) (b : Byte) (c : Bool) : (s.setResultFlag x b c).fb = s.fb := rfl
@[simp] theorem State.setResultFlag_keys (x : Nibble) (b : Byte) (c : Bool) : (s.setResultFlag x b c).keys = s.keys := rfl
@[simp] theorem State.setResultFlag_rnd (x : Nibble) (b : Byte) (c : Bool) : (s.setResultFlag x b c).rnd = s.rnd := rfl
@[simp] theorem State.setResultFlag_draws (x : Nibble) (b : Byte) (c : Bool) : (s.setResultFlag x b c).draws = s.draws := rfl
@[simp] theorem State.setResultFlag_events (x : Nibble) (b : Byte) (c : Bool) : (s.setResultFlag x b c).events = s.events := rfl
@[simp] theorem State.setResultFlag_reports (x : Nibble) (b : Byte) (c : Bool) : (s.setResultFlag x b c).reports = s.reports := rfl

@[simp] theorem State.drawSprite_v (a b : Byte) (sp : List Byte) : (s.drawSprite a b sp).v = s.v.set vf.toNat (flagByte (draw a b sp s.fb).2) vf.isLt := rfl
@[simp] theorem State.drawSprite_ireg (a b : Byte) (sp : List Byte) : (s.drawSprite a b sp).ireg = s.ireg := rfl
@[simp] theorem State.drawSprite_pc (a b : Byte) (sp : List Byte) : (s.drawSprite a b sp).pc = s.pc := rfl
@[simp] theorem State.drawSprite_stk (a b : Byte) (sp : List Byte) : (s.drawSprite a b sp).stk = s.stk := rfl
@[simp] theorem State.drawSprite_sp (a b : Byte) (sp : List Byte) : (s.drawSprite a b sp).sp = s.sp := rfl
@[simp] theorem State.drawSprite_dt (a b : Byte) (sp : List Byte) : (s.drawSprite a b sp).dt = s.dt := rfl
@[simp] theorem State.drawSprite_st (a b : Byte) (sp : List Byte) : (s.drawSprite a b sp).st = s.st := rfl
@[simp] theorem State.drawSprite_fault (a b : Byte) (sp : List Byte) : (s.drawSprite a b sp).fault = s.fault := rfl
@[simp] theorem State.drawSprite_cause (a b : Byte) (sp : List Byte) : (s.drawSprite a b sp).cause = s.cause := rfl
@[simp] theorem State.drawSprite_mem (a b : Byte) (sp : List Byte) : (s.drawSprite a b sp).mem = s.mem := rfl
@[simp] theorem State.drawSprite_fb (a b : Byte) (sp : List Byte) : (s.drawSprite a b sp).fb = (draw a b sp s.fb).1 := rfl
@[simp] theorem State.drawSprite_keys (a b : Byte) (sp : List Byte) : (s.drawSprite a b sp).keys = s.keys := rfl
@[simp] theorem State.drawSprite_rnd (a b : Byte) (sp : List Byte) : (s.drawSprite a b sp).rnd = s.rnd := rfl
@[simp] theorem State.drawSprite_draws (a b : Byte) (sp : List Byte) : (s.drawSprite a b sp).draws = s.draws := rfl
@[simp] theorem State.drawSprite_events (a b : Byte) (sp : List Byte) : (s.drawSprite a b sp).events = s.events := rfl
@[simp] theorem State.drawSprite_reports (a b : Byte) (sp : List Byte) : (s.drawSprite a b sp).reports = s.reports := rfl

@[simp] theorem State.tick_v : (s.tick).v = s.v := rfl
@[simp] theorem State.tick_ireg : (s.tick).ireg = s.ireg := rfl
@[simp] theorem State.tick_pc : (s.tick).pc = s.pc := rfl
@[simp] theorem State.tick_stk : (s.tick).stk = s.stk := rfl
@[simp] theorem State.tick_sp : (s.tick).sp = s.sp := rfl
@[simp] theorem State.tick_dt : (s.tick).dt = decTimer s.dt := rfl
@[simp] theorem State.tick_st : (s.tick).st = decTimer s.st := rfl
@[simp] theorem State.tick_fault : (s.tick).fault = s.fault := rfl
@[simp] theorem State.tick_cause : (s.tick).cause = s.cause := rfl
@[simp] theorem State.tick_mem : (s.tick).mem = s.mem := rfl
@[simp] theorem State.tick_fb : (s.tick).fb = s.fb := rfl
@[simp] theorem State.tick_keys : (s.tick).keys = s.keys := rfl
@[simp] theorem State.tick_rnd : (s.tick).rnd = s.rnd := rfl
@[simp] theorem State.tick_draws : (s.tick).draws = s.draws := rfl
@[simp] theorem State.tick_events : (s.tick).events = s.events := rfl
@[simp] theorem State.tick_reports : (s.tick).reports = s.reports := rfl

@[simp] theorem State.popEvent_v : (s.popEvent).v = s.v := rfl
@[simp] theorem State.popEvent_ireg : (s.popEvent).ireg = s.ireg := rfl
@[simp] theorem State.popEvent_pc : (s.popEvent).pc = s.pc := rfl
@[simp] theorem State.popEvent_stk : (s.popEvent).stk = s.stk := rfl
@[simp] theorem State.popEvent_sp : (s.popEvent).sp = s.sp := rfl
@[simp] theorem State.popEvent_dt : (s.popEvent).dt = s.dt := rfl
@[simp] theorem State.popEvent_st : (s.popEvent).st = s.st := rfl
@[simp] theorem State.popEvent_fault : (s.popEvent).fault = s.fault := rfl
@[simp] theorem State.popEvent_cause : (s.popEvent).cause = s.cause := rfl
@[simp] theorem State.popEvent_mem : (s.popEvent).mem = s.mem := rfl
@[simp] theorem State.popEvent_fb : (s.popEvent).fb = s.fb := rfl
@[simp] theorem State.popEvent_keys : (s.popEvent).keys = s.keys := rfl
@[simp] theorem State.popEvent_rnd : (s.popEvent).rnd = s.rnd := rfl
@[simp] theorem State.popEvent_draws : (s.popEvent).draws = s.draws := rfl
@[simp] theorem State.popEvent_events : (s.popEvent).events = s.events.tail := rfl
@[simp] theorem State.popEvent_reports : (s.popEvent).reports = s.reports := rfl

@[simp] theorem State.resetCore_v (rom : List Byte) : (s.resetCore rom).v = Vector.replicate 16 0 := rfl
@[simp] theorem State.resetCore_ireg (rom : List Byte) : (s.resetCore rom).ireg = 0 := rfl
@[simp] theorem State.resetCore_pc (rom : List Byte) : (s.resetCore rom).pc = 0x0200 := rfl
@[simp] theorem State.resetCore_stk (rom : List Byte) : (s.resetCore rom).stk = Vector.replicate 16 0 := rfl
@[simp] theorem State.resetCore_sp (rom : List Byte) : (s.resetCore rom).sp = 0 := rfl
@[simp] theorem State.resetCore_dt (rom : List Byte) : (s.resetCore rom).dt = 0 := rfl
@[simp] theorem State.resetCore_st (rom : List Byte) : (s.resetCore rom).st = 0 := rfl
@[simp] theorem State.resetCore_fault (rom : List Byte) : (s.resetCore rom).fault = false := rfl
@[simp] theorem State.resetCore_cause (rom : List Byte) : (s.resetCore rom).cause = 0 := rfl
@[simp] theorem State.resetCore_mem (rom : List Byte) : (s.resetCore rom).mem = Memory.ofRom rom := rfl
@[simp] theorem State.resetCore_fb (rom : List Byte) : (s.resetCore rom).fb = Vector.replicate 32 0 := rfl
@[simp] theorem State.resetCore_keys (rom : List Byte) : (s.resetCore rom).keys = s.keys := rfl
@[simp] theorem State.resetCore_rnd (rom : List Byte) : (s.resetCore rom).rnd = s.rnd := rfl
@[simp] theorem State.resetCore_draws (rom : List Byte) : (s.resetCore rom).draws = s.draws := rfl
@[simp] theorem State.resetCore_events (rom : List Byte) : (s.resetCore rom).events = s.events := rfl
@[simp] theorem State.resetCore_reports (rom : List Byte) : (s.resetCore rom).reports = s.reports := rfl

@[simp] theorem State.skipIf_v (c : Bool) : (s.skipIf c).v = s.v := by cases c <;> rfl
@[simp] theorem State.skipIf_ireg (c : Bool) : (s.skipIf c).ireg = s.ireg := by cases c <;> rfl
@[simp] theorem State.skipIf_pc (c : Bool) : (s.skipIf c).pc = if c then s.pc + 2 else s.pc := by cases c <;> rfl
@[simp] theorem State.skipIf_stk (c : Bool) : (s.skipIf c).stk = s.stk := by cases c <;> rfl
@[simp] theorem State.skipIf_sp (c : Bool) : (s.skipIf c).sp = s.sp := by cases c <;> rfl
@[simp] theorem State.skipIf_dt (c : Bool) : (s.skipIf c).dt = s.dt := by cases c <;> rfl
@[simp] theorem State.skipIf_st (c : Bool) : (s.skipIf c).st = s.st := by cases c <;> rfl
@[simp] theorem State.skipIf_fault (c : Bool) : (s.skipIf c).fault = s.fault := by cases c <;> rfl
@[simp] theorem State.skipIf_cause (c : Bool) : (s.skipIf c).cause = s.cause := by cases c <;> rfl
@[simp] theorem State.skipIf_mem (c : Bool) : (s.skipIf c).mem = s.mem := by cases c <;> rfl
@[simp] theorem State.skipIf_fb (c : Bool) : (s.skipIf c).fb = s.fb := by cases c <;> rfl
@[simp] theorem State.skipIf_keys (c : Bool) : (s.skipIf c).keys = s.keys := by cases c <;> rfl
@[simp] theorem State.skipIf_rnd (c : Bool) : (s.skipIf c).rnd = s.rnd := by cases c <;> rfl
@[simp] theorem State.skipIf_draws (c : Bool) : (s.skipIf c).draws = s.draws := by cases c <;> rfl
@[simp] theorem State.skipIf_events (c : Bool) : (s.skipIf c).events = s.events := by cases c <;> rfl
@[simp] theorem State.skipIf_reports (c : Bool) : (s.skipIf c).reports = s.reports := by cases c <;> rfl

@[simp] theorem State.consumeRnd_v : s.consumeRnd.v = s.v := by
  unfold State.consumeRnd
  split <;> rfl
@[simp] theorem State.consumeRnd_ireg : s.consumeRnd.ireg = s.ireg := by
  unfold State.consumeRnd
  split <;> rfl
@[simp] theorem State.consumeRnd_pc : s.consumeRnd.pc = s.pc := by
  unfold State.consumeRnd
  split <;> rfl
@[simp] theorem State.consumeRnd_stk : s.consumeRnd.stk = s.stk := by
  unfold State.consumeRnd
  split <;> rfl
@[simp] theorem State.consumeRnd_sp : s.consumeRnd.sp = s.sp := by
  unfold State.consumeRnd
  split <;> rfl
@[simp] theorem State.consumeRnd_dt : s.consumeRnd.dt = s.dt := by
  unfold State.consumeRnd
  split <;> rfl
@[simp] theorem State.consumeRnd_st : s.consumeRnd.st = s.st := by
  unfold State.consumeRnd
  split <;> rfl
@[simp] theorem State.consumeRnd_fault : s.consumeRnd.fault = s.fault := by
  unfold State.consumeRnd
  split <;> rfl
@[simp] theorem State.consumeRnd_cause : s.consumeRnd.cause = s.cause := by
  unfold State.consumeRnd
  split <;> rfl
@[simp] theorem State.consumeRnd_mem : s.consumeRnd.mem = s.mem := by
  unfold State.consumeRnd
  split <;> rfl
@[simp] theorem State.consumeRnd_fb : s.consumeRnd.fb = s.fb := by
  unfold State.consumeRnd
  split <;> rfl
@[simp] theorem State.consumeRnd_keys : s.consumeRnd.keys = s.keys := by
  unfold State.consumeRnd
  split <;> rfl
@[simp] theorem State.consumeRnd_rnd : s.consumeRnd.rnd = none := by
  unfold State.consumeRnd
  split <;> simp_all
@[simp] theorem State.consumeRnd_draws : s.consumeRnd.draws = if s.rnd = none then s.draws + 1 else s.draws := by
  unfold State.consumeRnd
  split <;> simp_all
@[simp] theorem State.consumeRnd_events : s.consumeRnd.events = s.events := by
  unfold State.consumeRnd
  split <;> rfl
@[simp] theorem State.consumeRnd_reports : s.consumeRnd.reports = s.reports := by
  unfold State.consumeRnd
  split <;> rfl

@[simp] theorem State.setVs_ireg (k : Nat) (bs : List Byte) : (s.setVs k bs).ireg = s.ireg := by
  induction bs generalizing s k with
  | nil => rfl
  | cons b bs ih => simp [State.setVs, ih]
@[simp] theorem State.setVs_pc (k : Nat) (bs : List Byte) : (s.setVs k bs).pc = s.pc := by
  induction bs generalizing s k with
  | nil => rfl
  | cons b bs ih => simp [State.setVs, ih]
@[simp] theorem State.setVs_stk (k : Nat) (bs : List Byte) : (s.setVs k bs).stk = s.stk := by
  induction bs generalizing s k with
  | nil => rfl
  | cons b bs ih => simp [State.setVs, ih]
@[simp] theorem State.setVs_sp (k : Nat) (bs : List Byte) : (s.setVs k bs).sp = s.sp := by
  induction bs generalizing s k with
  | nil => rfl
  | cons b bs ih => simp [State.setVs, ih]
@[simp] theorem State.setVs_dt (k : Nat) (bs : List Byte) : (s.setVs k bs).dt = s.dt := by
  induction bs generalizing s k with
  | nil => rfl
  | cons b bs ih => simp [State.setVs, ih]
@[simp] theorem State.setVs_st (k : Nat) (bs : List Byte) : (s.setVs k bs).st = s.st := by
  induction bs generalizing s k with
  | nil => rfl
  | cons b bs ih => simp [State.setVs, ih]
@[simp] theorem State.setVs_fault (k : Nat) (bs : List Byte) : (s.setVs k bs).fault = s.fault := by
  induction bs generalizing s k with
  | nil => rfl
  | cons b bs ih => simp [State.setVs, ih]
@[simp] theorem State.setVs_cause (k : Nat) (bs : List Byte) : (s.setVs k bs).cause = s.cause := by
  induction bs generalizing s k with
  | nil => rfl
  | cons b bs ih => simp [State.setVs, ih]
@[simp] theorem State.setVs_mem (k : Nat) (bs : List Byte) : (s.setVs k bs).mem = s.mem := by
  induction bs generalizing s k with
  | nil => rfl
  | cons b bs ih => simp [State.setVs, ih]
@[simp] theorem State.setVs_fb (k : Nat) (bs : List Byte) : (s.setVs k bs).fb = s.fb := by
  induction bs generalizing s k with
  | nil => rfl
  | cons b bs ih => simp [State.setVs, ih]
@[simp] theorem State.setVs_keys (k : Nat) (bs : List Byte) : (s.setVs k bs).keys = s.keys := by
  induction bs generalizing s k with
  | nil => rfl
  | cons b bs ih => simp [State.setVs, ih]
@[simp] theorem State.setVs_rnd (k : Nat) (bs : List Byte) : (s.setVs k bs).rnd = s.rnd := by
  induction bs generalizing s k with
  | nil => rfl
  | cons b bs ih => simp [State.setVs, ih]
@[simp] theorem State.setVs_draws (k : Nat) (bs : List Byte) : (s.setVs k bs).draws = s.draws := by
  induction bs generalizing s k with
  | nil => rfl
  | cons b bs ih => simp [State.setVs, ih]
@[simp] theorem State.setVs_events (k : Nat) (bs : List Byte) : (s.setVs k bs).events = s.events := by
  induction bs generalizing s k with
  | nil => rfl
  | cons b bs ih => simp [State.setVs, ih]
@[simp] theorem State.setVs_reports (k : Nat) (bs : List Byte) : (s.setVs k bs).reports = s.reports := by
  induction bs generalizing s k with
  | nil => rfl
  | cons b bs ih => simp [State.setVs, ih]

end Sys2Proof.Machine
end

