-- ==== Sys2Proof/Laws/Ops.lean ====
section
/-! SUPPORT. One lemma per shared operation: registers, guarded access, call and return, events. -/

namespace Sys2Proof.Machine

variable (s : State)

/-- Reading a register after a write. -/
theorem State.getV_setV (x y : Nibble) (b : Byte) : (s.setV x b).getV y = if y = x then b else s.getV y := by
  have hxy : x.toNat = y.toNat ↔ y = x := ⟨fun h => (BitVec.eq_of_toNat_eq h).symm, fun h => by rw [h]⟩
  simp only [State.getV, State.setV, Vector.getElem_set, hxy]

/-- A register read depends on the register file only. -/
theorem State.getV_congr {s t : State} (h : t.v = s.v) (x : Nibble) : t.getV x = s.getV x := by
  simp only [State.getV, h]

/-- Two register files with equal reads are equal. -/
theorem State.v_ext {s t : State} (h : ∀ x, t.getV x = s.getV x) : t.v = s.v := by
  apply Vector.ext
  intro k hk
  have := h (BitVec.ofNat 4 k)
  simpa [State.getV, Nat.mod_eq_of_lt hk] using this

/-- The registers after a flag-producing instruction: the flag wins for x = F (42_alu.md R100). -/
theorem State.getV_setResultFlag (x y : Nibble) (r : Byte) (c : Bool) :
    (s.setResultFlag x r c).getV y = if y = vf then flagByte c else if y = x then r else s.getV y := by
  simp only [State.setResultFlag, State.setFlag, State.getV_setV]

/-- Loading `bs` into registers from index `k` on. -/
theorem State.getV_setVs (k : Nat) (bs : List Byte) (hk : k + bs.length ≤ 16) (y : Nibble) :
    (s.setVs k bs).getV y = if h : k ≤ y.toNat ∧ y.toNat < k + bs.length then bs[y.toNat - k]'(by omega) else s.getV y := by
  induction bs generalizing s k with
  | nil =>
    simp [State.setVs]
  | cons b bs ih =>
    simp only [List.length_cons] at hk
    rw [State.setVs, ih _ _ (by omega), State.getV_setV]
    have hy : y = BitVec.ofNat 4 k ↔ y.toNat = k := by
      rw [← BitVec.toNat_inj, BitVec.toNat_ofNat, Nat.mod_eq_of_lt (by omega)]
    by_cases h1 : y.toNat = k
    · have hn : ¬ (k + 1 ≤ y.toNat ∧ y.toNat < k + 1 + bs.length) := by omega
      have hp : k ≤ y.toNat ∧ y.toNat < k + (b :: bs).length := by simp only [List.length_cons]; omega
      rw [dif_neg hn, if_pos (hy.2 h1), dif_pos hp]
      simp [h1]
    · by_cases h2 : k + 1 ≤ y.toNat ∧ y.toNat < k + 1 + bs.length
      · have hp : k ≤ y.toNat ∧ y.toNat < k + (bs.length + 1) := by omega
        have hs : y.toNat - k = (y.toNat - (k + 1)) + 1 := by omega
        simp [h2, hp, hs]
      · have hp : ¬ (k ≤ y.toNat ∧ y.toNat < k + (bs.length + 1)) := by omega
        simp only [List.length_cons]
        rw [dif_neg h2, dif_neg hp, if_neg (fun e => h1 (hy.1 e))]

/-- A guarded access: in bounds it does its work, else it takes the fatal error and nothing else (60_exceptions.md R157). -/
theorem State.guardAccess_cases (last : Nat) (go : State → State) :
    (last < Config.memSize ∧ s.guardAccess last go = .next (go s)) ∨
    (Config.memSize ≤ last ∧ s.guardAccess last go = .next (s.takeFatal (.outOfBoundsMemoryAccess last))) := by
  unfold State.guardAccess raise
  split
  · exact .inl ⟨‹_›, rfl⟩
  · exact .inr ⟨by omega, rfl⟩

/-- A call with room on the stack (41_control_flow.md R92). -/
theorem State.callTo_of_lt (target : Word) (h : s.sp.val < 16) :
    s.callTo target = .next { s with stk := s.stk.set s.sp.val s.pc h, sp := ⟨s.sp.val + 1, by omega⟩, pc := target } := by
  simp [State.callTo, h]

/-- A call with a full stack (60_exceptions.md R152). -/
theorem State.callTo_of_full (target : Word) (h : s.sp.val = 16) :
    s.callTo target = .next (s.takeFatal (.stackOverflow s.pc0)) := by
  simp [State.callTo, h, raise]

/-- A return with a valid entry (41_control_flow.md R90). -/
theorem State.popPc_of_pos (h : 0 < s.sp.val) :
    s.popPc = .next { s with sp := ⟨s.sp.val - 1, by omega⟩, pc := s.stk[s.sp.val - 1]'(by omega) } := by
  simp [State.popPc, h]

/-- A return with an empty stack (60_exceptions.md R153). -/
theorem State.popPc_of_empty (h : s.sp.val = 0) : s.popPc = .next (s.takeFatal (.stackUnderflow s.pc0)) := by
  simp [State.popPc, h, raise]

/-- No execution answers a fault or a refusal: fatal errors are taken (60_exceptions.md R156). -/
theorem State.guardAccess_next (last : Nat) (go : State → State) : ∃ t, s.guardAccess last go = .next t := by
  rcases s.guardAccess_cases last go with ⟨-, h⟩ | ⟨-, h⟩ <;> exact ⟨_, h⟩

/-- The cases of a cycle (40_cycle.md R80, R81, R86). -/
theorem cycle_cases :
    (s.fault = true ∧ cycle s = .next s) ∨
    (s.fault = false ∧ s.fetchable = true ∧ cycle s = exec (decode s.fetchWord) s.advancePc) ∨
    (s.fault = false ∧ s.fetchable = false ∧
      cycle s = .next (s.takeFatal (.outOfBoundsMemoryAccess s.fetchFaultAddr))) := by
  unfold cycle raise
  cases hf : s.fault
  · cases hg : s.fetchable <;> simp
  · simp

@[simp] theorem State.pc0_advancePc : s.advancePc.pc0 = s.pc := by
  simp [State.pc0]

@[simp] theorem State.getV_advancePc (x : Nibble) : s.advancePc.getV x = s.getV x := rfl

@[simp] theorem State.getV_setPc (p : Word) (x : Nibble) : (s.setPc p).getV x = s.getV x := State.getV_congr (by simp) x

@[simp] theorem State.getV_skipIf (c : Bool) (x : Nibble) : (s.skipIf c).getV x = s.getV x := State.getV_congr (by simp) x

@[simp] theorem State.getV_setI (a : Addr12) (x : Nibble) : (s.setI a).getV x = s.getV x := State.getV_congr (by simp) x

@[simp] theorem State.getV_storeBytes (a : Nat) (bs : List Byte) (x : Nibble) : (s.storeBytes a bs).getV x = s.getV x := State.getV_congr (by simp) x

@[simp] theorem State.getV_report (r : Report) (x : Nibble) : (s.report r).getV x = s.getV x := State.getV_congr (by simp) x

@[simp] theorem State.getV_takeFatal (f : Fault) (x : Nibble) : (s.takeFatal f).getV x = s.getV x := State.getV_congr (by simp) x

@[simp] theorem State.getV_consumeRnd (x : Nibble) : (s.consumeRnd).getV x = s.getV x := State.getV_congr (by simp) x

@[simp] theorem State.getV_tick (x : Nibble) : (s.tick).getV x = s.getV x := State.getV_congr (by simp) x

@[simp] theorem State.getV_popEvent (x : Nibble) : (s.popEvent).getV x = s.getV x := State.getV_congr (by simp) x

@[simp] theorem State.fetchWord_popEvent : s.popEvent.fetchWord = s.fetchWord := rfl

@[simp] theorem State.fetchable_popEvent : s.popEvent.fetchable = s.fetchable := rfl

end Sys2Proof.Machine
end

