-- ==== Sys2Proof/Laws/PerInstr.lean ====
section
/-! SUPPORT. Family RowSelects: the word of a well-formed instruction selects the opcode-table row of its constructor
(30_encoding.md R66), and an unknown word selects none (R65). One lemma per constructor. -/

namespace Sys2Proof.Laws.RowSelects

/-- The row at an instruction's row number has that number, and the instruction's word selects it; where there is no such
row (row 35, "anything else"), the word selects no row. -/
def Statement (i : Instr) : Prop :=
  i.wf = true →
    match opcodeRows[i.row - 1]? with
    | some r => r.number = i.row ∧ r.selects (encode i) = true
    | none => opcodeRows.all (fun r => !r.selects (encode i)) = true

theorem cls : Statement .cls := fun _ => ⟨rfl, rfl⟩

theorem ret : Statement .ret := fun _ => ⟨rfl, rfl⟩

theorem jp (nnn : Addr12) : Statement (.jp nnn) := by
  refine fun _ => ⟨rfl, ?_⟩
  simp only [encode, OpcodeRow.selects, and_mask_op, fieldOp_packNNN]
  decide

theorem call (nnn : Addr12) : Statement (.call nnn) := by
  refine fun _ => ⟨rfl, ?_⟩
  simp only [encode, OpcodeRow.selects, and_mask_op, fieldOp_packNNN]
  decide

theorem seImm (x : Nibble) (kk : Byte) : Statement (.seImm x kk) := by
  refine fun _ => ⟨rfl, ?_⟩
  simp only [encode, OpcodeRow.selects, and_mask_op, fieldOp_packXKK]
  decide

theorem sneImm (x : Nibble) (kk : Byte) : Statement (.sneImm x kk) := by
  refine fun _ => ⟨rfl, ?_⟩
  simp only [encode, OpcodeRow.selects, and_mask_op, fieldOp_packXKK]
  decide

theorem seReg (x y : Nibble) : Statement (.seReg x y) := by
  refine fun _ => ⟨rfl, ?_⟩
  simp only [encode, OpcodeRow.selects, and_mask_op_n, fieldOp_packXYN, fieldN_packXYN]
  decide

theorem ldImm (x : Nibble) (kk : Byte) : Statement (.ldImm x kk) := by
  refine fun _ => ⟨rfl, ?_⟩
  simp only [encode, OpcodeRow.selects, and_mask_op, fieldOp_packXKK]
  decide

theorem addImm (x : Nibble) (kk : Byte) : Statement (.addImm x kk) := by
  refine fun _ => ⟨rfl, ?_⟩
  simp only [encode, OpcodeRow.selects, and_mask_op, fieldOp_packXKK]
  decide

theorem ldReg (x y : Nibble) : Statement (.ldReg x y) := by
  refine fun _ => ⟨rfl, ?_⟩
  simp only [encode, OpcodeRow.selects, and_mask_op_n, fieldOp_packXYN, fieldN_packXYN]
  decide

theorem orReg (x y : Nibble) : Statement (.orReg x y) := by
  refine fun _ => ⟨rfl, ?_⟩
  simp only [encode, OpcodeRow.selects, and_mask_op_n, fieldOp_packXYN, fieldN_packXYN]
  decide

theorem andReg (x y : Nibble) : Statement (.andReg x y) := by
  refine fun _ => ⟨rfl, ?_⟩
  simp only [encode, OpcodeRow.selects, and_mask_op_n, fieldOp_packXYN, fieldN_packXYN]
  decide

theorem xorReg (x y : Nibble) : Statement (.xorReg x y) := by
  refine fun _ => ⟨rfl, ?_⟩
  simp only [encode, OpcodeRow.selects, and_mask_op_n, fieldOp_packXYN, fieldN_packXYN]
  decide

theorem addReg (x y : Nibble) : Statement (.addReg x y) := by
  refine fun _ => ⟨rfl, ?_⟩
  simp only [encode, OpcodeRow.selects, and_mask_op_n, fieldOp_packXYN, fieldN_packXYN]
  decide

theorem subReg (x y : Nibble) : Statement (.subReg x y) := by
  refine fun _ => ⟨rfl, ?_⟩
  simp only [encode, OpcodeRow.selects, and_mask_op_n, fieldOp_packXYN, fieldN_packXYN]
  decide

theorem shr (x y : Nibble) : Statement (.shr x y) := by
  refine fun _ => ⟨rfl, ?_⟩
  simp only [encode, OpcodeRow.selects, and_mask_op_n, fieldOp_packXYN, fieldN_packXYN]
  decide

theorem subnReg (x y : Nibble) : Statement (.subnReg x y) := by
  refine fun _ => ⟨rfl, ?_⟩
  simp only [encode, OpcodeRow.selects, and_mask_op_n, fieldOp_packXYN, fieldN_packXYN]
  decide

theorem shl (x y : Nibble) : Statement (.shl x y) := by
  refine fun _ => ⟨rfl, ?_⟩
  simp only [encode, OpcodeRow.selects, and_mask_op_n, fieldOp_packXYN, fieldN_packXYN]
  decide

theorem sneReg (x y : Nibble) : Statement (.sneReg x y) := by
  refine fun _ => ⟨rfl, ?_⟩
  simp only [encode, OpcodeRow.selects, and_mask_op_n, fieldOp_packXYN, fieldN_packXYN]
  decide

theorem ldI (nnn : Addr12) : Statement (.ldI nnn) := by
  refine fun _ => ⟨rfl, ?_⟩
  simp only [encode, OpcodeRow.selects, and_mask_op, fieldOp_packNNN]
  decide

theorem jpV0 (nnn : Addr12) : Statement (.jpV0 nnn) := by
  refine fun _ => ⟨rfl, ?_⟩
  simp only [encode, OpcodeRow.selects, and_mask_op, fieldOp_packNNN]
  decide

theorem rnd (x : Nibble) (kk : Byte) : Statement (.rnd x kk) := by
  refine fun _ => ⟨rfl, ?_⟩
  simp only [encode, OpcodeRow.selects, and_mask_op, fieldOp_packXKK]
  decide

theorem drw (x y n : Nibble) : Statement (.drw x y n) := by
  refine fun _ => ⟨rfl, ?_⟩
  simp only [encode, OpcodeRow.selects, and_mask_op, fieldOp_packXYN]
  decide

theorem skp (x : Nibble) : Statement (.skp x) := by
  refine fun _ => ⟨rfl, ?_⟩
  simp only [encode, OpcodeRow.selects, and_mask_op_kk, fieldOp_packXKK, fieldKK_packXKK]
  decide

theorem sknp (x : Nibble) : Statement (.sknp x) := by
  refine fun _ => ⟨rfl, ?_⟩
  simp only [encode, OpcodeRow.selects, and_mask_op_kk, fieldOp_packXKK, fieldKK_packXKK]
  decide

theorem ldVxDt (x : Nibble) : Statement (.ldVxDt x) := by
  refine fun _ => ⟨rfl, ?_⟩
  simp only [encode, OpcodeRow.selects, and_mask_op_kk, fieldOp_packXKK, fieldKK_packXKK]
  decide

theorem ldVxKey (x : Nibble) : Statement (.ldVxKey x) := by
  refine fun _ => ⟨rfl, ?_⟩
  simp only [encode, OpcodeRow.selects, and_mask_op_kk, fieldOp_packXKK, fieldKK_packXKK]
  decide

theorem ldDtVx (x : Nibble) : Statement (.ldDtVx x) := by
  refine fun _ => ⟨rfl, ?_⟩
  simp only [encode, OpcodeRow.selects, and_mask_op_kk, fieldOp_packXKK, fieldKK_packXKK]
  decide

theorem ldStVx (x : Nibble) : Statement (.ldStVx x) := by
  refine fun _ => ⟨rfl, ?_⟩
  simp only [encode, OpcodeRow.selects, and_mask_op_kk, fieldOp_packXKK, fieldKK_packXKK]
  decide

theorem addI (x : Nibble) : Statement (.addI x) := by
  refine fun _ => ⟨rfl, ?_⟩
  simp only [encode, OpcodeRow.selects, and_mask_op_kk, fieldOp_packXKK, fieldKK_packXKK]
  decide

theorem ldFont (x : Nibble) : Statement (.ldFont x) := by
  refine fun _ => ⟨rfl, ?_⟩
  simp only [encode, OpcodeRow.selects, and_mask_op_kk, fieldOp_packXKK, fieldKK_packXKK]
  decide

theorem ldBcd (x : Nibble) : Statement (.ldBcd x) := by
  refine fun _ => ⟨rfl, ?_⟩
  simp only [encode, OpcodeRow.selects, and_mask_op_kk, fieldOp_packXKK, fieldKK_packXKK]
  decide

theorem stRegs (x : Nibble) : Statement (.stRegs x) := by
  refine fun _ => ⟨rfl, ?_⟩
  simp only [encode, OpcodeRow.selects, and_mask_op_kk, fieldOp_packXKK, fieldKK_packXKK]
  decide

theorem ldRegs (x : Nibble) : Statement (.ldRegs x) := by
  refine fun _ => ⟨rfl, ?_⟩
  simp only [encode, OpcodeRow.selects, and_mask_op_kk, fieldOp_packXKK, fieldKK_packXKK]
  decide

theorem unknown (w : Word) : Statement (.unknown w) := by
  intro h
  simpa [Instr.row, Instr.wf, opcodeRows, opcodeRowsLow, opcodeRowsReg, opcodeRowsHigh, encode] using h

end Sys2Proof.Laws.RowSelects
end

