-- ==== Sys2Proof/Tests/Slice0.lean ====
section
/-! SUPPORT. The model's own tests: well-formedness, words written out bit by bit, one step with a result taken from
95_test_vectors.md, and for each statement with hypotheses a state that meets them all. -/

namespace Sys2Proof.Tests

open Sys2Proof.Machine

/-- The reset state with the word `w` at 0x200, where the next step fetches. -/
def prog (w : Nat) : State := State.reset.withFetchWord 16 w

/-- One reading of the state after one step, if there is one. -/
def after {α : Type} (f : State → α) (s : State) : Option α :=
  match step s with
  | .next t => some (f t)
  | .fault _ => none
  | .refused _ => none

/-- Whether an execution answers a next state with the given reading. -/
def answers (r : Result) (f : State → Bool) : Bool :=
  match r with
  | .next t => f t
  | .fault _ => false
  | .refused _ => false

/-! ### Well-formedness: the one check refuses a word that belongs to a row -/

theorem test_wf_refuses_cls_word : (Instr.unknown 0x00E0).wf = false := by decide
theorem test_wf_refuses_jump_word : (Instr.unknown 0x1234).wf = false := by decide
theorem test_wf_refuses_store_word : (Instr.unknown 0xF255).wf = false := by decide
theorem test_wf_accepts_unknown_word : (Instr.unknown 0x5121).wf = true := by decide
theorem test_wf_accepts_draw : (Instr.drw 0x1 0x2 0x0).wf = true := by decide

/-! ### Decoding: op, x, y, n or op, x, kk or op, nnn written out bit by bit from 30_encoding.md R61 and R66 -/

theorem test_decode_control :
    decode 0b0000_0000_1110_0000 = .cls ∧ decode 0b0000_0000_1110_1110 = .ret ∧
    decode 0b0001_0010_0011_0100 = .jp 0x234 ∧ decode 0b0010_1111_1111_1110 = .call 0xFFE ∧
    decode 0b0011_1010_0000_0101 = .seImm 0xA 0x05 ∧ decode 0b0100_0101_1000_0001 = .sneImm 0x5 0x81 ∧
    decode 0b0101_0001_0010_0000 = .seReg 0x1 0x2 ∧ decode 0b1001_1110_0111_0000 = .sneReg 0xE 0x7 ∧
    decode 0b1011_0011_0000_0001 = .jpV0 0x301 := by decide

theorem test_decode_alu :
    decode 0b0110_1010_0010_1011 = .ldImm 0xA 0x2B ∧ decode 0b0111_0001_1111_1110 = .addImm 0x1 0xFE ∧
    decode 0b1000_0001_0010_0000 = .ldReg 0x1 0x2 ∧ decode 0b1000_0001_0010_0001 = .orReg 0x1 0x2 ∧
    decode 0b1000_0001_0010_0010 = .andReg 0x1 0x2 ∧ decode 0b1000_0001_0010_0011 = .xorReg 0x1 0x2 ∧
    decode 0b1000_0001_0010_0100 = .addReg 0x1 0x2 ∧ decode 0b1000_0001_0010_0101 = .subReg 0x1 0x2 := by decide

theorem test_decode_shifts_and_random :
    decode 0b1000_0001_0010_0110 = .shr 0x1 0x2 ∧ decode 0b1000_0001_0010_0111 = .subnReg 0x1 0x2 ∧
    decode 0b1000_0001_0010_1110 = .shl 0x1 0x2 ∧ decode 0b1100_0001_0000_1111 = .rnd 0x1 0x0F := by decide

theorem test_decode_memory_and_display :
    decode 0b1010_0010_1111_0001 = .ldI 0x2F1 ∧ decode 0b1111_0010_0001_1110 = .addI 0x2 ∧
    decode 0b1111_0010_0010_1001 = .ldFont 0x2 ∧ decode 0b1111_0010_0011_0011 = .ldBcd 0x2 ∧
    decode 0b1111_0010_0101_0101 = .stRegs 0x2 ∧ decode 0b1111_0010_0110_0101 = .ldRegs 0x2 ∧
    decode 0b1101_0001_0010_0101 = .drw 0x1 0x2 0x5 := by decide

theorem test_decode_keypad_and_timers :
    decode 0b1110_0011_1001_1110 = .skp 0x3 ∧ decode 0b1110_0011_1010_0001 = .sknp 0x3 ∧
    decode 0b1111_0011_0000_0111 = .ldVxDt 0x3 ∧ decode 0b1111_0011_0000_1010 = .ldVxKey 0x3 ∧
    decode 0b1111_0011_0001_0101 = .ldDtVx 0x3 ∧ decode 0b1111_0011_0001_1000 = .ldStVx 0x3 := by decide

theorem test_decode_unknown :
    decode 0x0000 = .unknown 0x0000 ∧ decode 0x8128 = .unknown 0x8128 ∧ decode 0xE19F = .unknown 0xE19F ∧
    decode 0xF166 = .unknown 0xF166 := by decide

theorem test_table_word : decodeTableWord 16 0xD125 = some (.drw 0x1 0x2 0x5) := by decide

theorem test_encode_writes_high_byte_first : encodeBytes (.drw 0x1 0x2 0x5) = [0xD1, 0x25] := by decide

/-! ### One step each; the expected readings are the vectors of 95_test_vectors.md sections 2.1 to 2.7 -/

theorem test_cls : after (fun t => (t.getPixel 3 0, t.pc)) { prog 0x00E0 with fb := togglePixel clearFramebuffer 3 0 } =
    some (false, 0x202) := by decide

theorem test_ret : after (fun t => (t.pc, t.sp.val))
    { prog 0x00EE with sp := 16, stk := (Vector.replicate 16 0).set 15 0x0ABC } = some (0x0ABC, 15) := by decide

theorem test_ret_underflow : after (fun t => (t.fault, t.cause, t.pc, t.sp.val)) (prog 0x00EE) =
    some (true, 3, 0x202, 0) := by decide

theorem test_jp : after State.pc (prog 0x1FFF) = some 0xFFF := by decide

theorem test_call : after (fun t => (t.pc, t.sp.val, t.stk[15])) { prog 0x2300 with sp := 15 } =
    some (0x300, 16, 0x0202) := by decide

theorem test_call_overflow : after (fun t => (t.fault, t.cause, t.pc, t.sp.val)) { prog 0x2300 with sp := 16 } =
    some (true, 2, 0x202, 16) := by decide

theorem test_se_imm : after State.pc ((prog 0x3A05).setV 0xA 0x05) = some 0x204 := by decide
theorem test_sne_imm : after State.pc ((prog 0x4A05).setV 0xA 0x06) = some 0x204 := by decide
theorem test_se_reg : after State.pc (((prog 0x5120).setV 0x1 0x7F).setV 0x2 0x80) = some 0x202 := by decide
theorem test_sne_reg : after State.pc (((prog 0x9120).setV 0x1 0x01).setV 0x2 0x02) = some 0x204 := by decide
theorem test_jp_v0_is_not_wrapped : after State.pc ((prog 0xBFFF).setV 0x0 0x02) = some 0x1001 := by decide

theorem test_ld_imm : after (fun t => (t.getV 0xA, t.pc)) (prog 0x6A2B) = some (0x2B, 0x202) := by decide

theorem test_add_imm_has_no_flag : after (fun t => (t.getV 0x1, t.getV 0xF)) ((prog 0x7105).setV 0x1 0xFE) =
    some (0x03, 0x00) := by decide

theorem test_ld_reg : after (fun t => t.getV 0x1) ((prog 0x8120).setV 0x2 0x9C) = some 0x9C := by decide

theorem test_or_keeps_vf : after (fun t => (t.getV 0x1, t.getV 0xF))
    ((((prog 0x8121).setV 0x1 0xF0).setV 0x2 0x0F).setV 0xF 0x01) = some (0xFF, 0x01) := by decide

theorem test_and : after (fun t => t.getV 0x1) (((prog 0x8122).setV 0x1 0xF3).setV 0x2 0x3F) = some 0x33 := by decide
theorem test_xor : after (fun t => t.getV 0x1) (((prog 0x8123).setV 0x1 0xFF).setV 0x2 0x0F) = some 0xF0 := by decide

theorem test_add_carry : after (fun t => (t.getV 0x1, t.getV 0xF)) (((prog 0x8124).setV 0x1 0x80).setV 0x2 0x80) =
    some (0x00, 0x01) := by decide

theorem test_add_flag_wins : after (fun t => t.getV 0xF) (((prog 0x8F14).setV 0xF 0x10).setV 0x1 0x01) = some 0x00 := by decide

theorem test_sub_equal_gives_no_flag : after (fun t => (t.getV 0x1, t.getV 0xF))
    ((((prog 0x8125).setV 0x1 0x33).setV 0x2 0x33).setV 0xF 0x01) = some (0x00, 0x00) := by decide

theorem test_sub_borrow : after (fun t => (t.getV 0x1, t.getV 0xF)) (((prog 0x8125).setV 0x1 0x10).setV 0x2 0x20) =
    some (0xF0, 0x00) := by decide

theorem test_shr_ignores_vy : after (fun t => (t.getV 0x1, t.getV 0xF, t.getV 0x2))
    (((prog 0x8126).setV 0x1 0x05).setV 0x2 0xAA) = some (0x02, 0x01, 0xAA) := by decide

theorem test_subn : after (fun t => (t.getV 0x1, t.getV 0xF)) (((prog 0x8127).setV 0x1 0x10).setV 0x2 0x20) =
    some (0x10, 0x01) := by decide

theorem test_shl : after (fun t => (t.getV 0x1, t.getV 0xF)) ((prog 0x812E).setV 0x1 0x81) = some (0x02, 0x01) := by decide

theorem test_rnd_supplied : after (fun t => (t.getV 0x1, t.rnd)) { prog 0xC10F with rnd := some 0xA7 } =
    some (0x07, none) := by decide

theorem test_ld_i : after State.ireg (prog 0xAFFF) = some 0xFFF := by decide

theorem test_add_i_at_the_limit : after (fun t => (t.ireg, t.getV 0xF))
    (((({ prog 0xF11E with ireg := 0xF01 } : State)).setV 0x1 0xFE).setV 0xF 0x01) = some (0xFFF, 0x00) := by decide

theorem test_add_i_wraps : after (fun t => (t.ireg, t.getV 0xF))
    ((({ prog 0xF11E with ireg := 0xF01 } : State)).setV 0x1 0xFF) = some (0x000, 0x01) := by decide

theorem test_ld_font : after State.ireg ((prog 0xF129).setV 0x1 0x1A) = some 0x032 := by decide

theorem test_bcd : after (fun t => t.mem.readBytes 0x300 3) (({ prog 0xF133 with ireg := 0x300 } : State).setV 0x1 0xEA) =
    some [0x02, 0x03, 0x04] := by decide

theorem test_bcd_beyond_memory : after (fun t => (t.fault, t.cause, t.readMem 0xFFE))
    (({ prog 0xF133 with ireg := 0xFFE } : State).setV 0x1 0x7B) = some (true, 1, 0x00) := by decide

theorem test_st_regs : after (fun t => (t.mem.readBytes 0x300 4, t.ireg))
    ((((({ prog 0xF255 with ireg := 0x300 } : State).setV 0x0 0x11).setV 0x1 0x22).setV 0x2 0x33).setV 0x3 0x44) =
    some ([0x11, 0x22, 0x33, 0x00], 0x300) := by decide

theorem test_st_regs_changes_the_next_word : after (fun t => (t.pc, t.fetchWord))
    (((({ prog 0xF255 with ireg := 0x200 } : State).setV 0x0 0x12).setV 0x1 0x00).setV 0x2 0x77) = some (0x202, 0x7700) := by decide

theorem test_ld_regs_reads_the_font : after (fun t => (t.getV 0x0, t.getV 0x1, t.getV 0x2))
    { prog 0xF165 with ireg := 0x033 } = some (0x90, 0xF0, 0x00) := by decide

theorem test_ld_regs_beyond_memory : after (fun t => (t.fault, t.cause, t.getV 0x0))
    (({ prog 0xF165 with ireg := 0xFFF } : State).setV 0x0 0x01) = some (true, 1, 0x01) := by decide

theorem test_drw_wraps : after (fun t => (t.getPixel 63 31, t.getPixel 6 31, t.getPixel 0 31, t.getV 0xF))
    ((({ prog 0xD121 with ireg := 0x300 } : State).storeBytes 0x300 [0x81]).setV 0x1 0xFF |>.setV 0x2 0xFF) =
    some (true, true, false, 0x00) := by decide

theorem test_drw_collides : after (fun t => (t.getPixel 0 0, t.getPixel 3 0, t.getPixel 4 0, t.getV 0xF))
    (({ prog 0xD121 with ireg := 0x300, fb := togglePixel (togglePixel clearFramebuffer 3 0) 4 0 } : State).storeBytes
      0x300 [0xF0]) = some (true, false, true, 0x01) := by decide

theorem test_skp_low_nibble : after State.pc (({ prog 0xE19E with keys := 0x0020 } : State).setV 0x1 0x15) = some 0x204 := by decide
theorem test_sknp_other_keys : after State.pc (({ prog 0xE1A1 with keys := 0xFFDF } : State).setV 0x1 0x05) = some 0x204 := by decide
theorem test_ld_vx_dt : after (fun t => (t.getV 0x2, t.dt)) { prog 0xF207 with dt := 0x3C } = some (0x3C, 0x3C) := by decide

theorem test_wait_no_key : after (fun t => (t.getV 0x3, t.pc)) ((prog 0xF30A).setV 0x3 0x77) = some (0x77, 0x200) := by decide

theorem test_wait_lowest_key : after (fun t => (t.getV 0x3, t.pc)) { prog 0xF30A with keys := 0x0180 } =
    some (0x07, 0x202) := by decide

theorem test_ld_dt_vx : after State.dt ((prog 0xF215).setV 0x2 0x3C) = some 0x3C := by decide
theorem test_ld_st_vx : after State.st ((prog 0xFF18).setV 0xF 0xFF) = some 0xFF := by decide

theorem test_unknown : after (fun t => (t.pc, t.diagRecords, t.fault)) (prog 0x0FFF) =
    some (0x202, [(0x200, 0x0FFF)], false) := by decide

theorem test_odd_pc : after (fun t => (t.getV 0xA, t.pc))
    { State.reset.storeBytes 0x200 [0x00, 0x6A, 0x2B, 0x00] with pc := 0x201 } = some (0x2B, 0x203) := by decide

theorem test_fetch_beyond_memory : after (fun t => (t.fault, t.cause, t.pc)) { State.reset with pc := 0xFFF } =
    some (true, 1, 0xFFF) := by decide

theorem test_tick : after (fun t => (t.dt, t.st)) { State.reset with dt := 0x02, events := [.tick] } =
    some (0x01, 0x00) := by decide

theorem test_faulted_step : after (fun t => (t.pc, t.getV 0xA, t.cause)) { prog 0x6A2B with fault := true, cause := 2 } =
    some (0x200, 0x00, 2) := by decide

theorem test_reset_loads_rom : after (fun t => (t.mem.readBytes 0x200 3, t.pc, t.fault))
    { State.reset with pc := 0x345, fault := true, cause := 1, events := [.reset [0x12, 0x00]] } =
    some ([0x12, 0x00, 0x00], 0x200, false) := by decide

/-! ### Witnesses: for each statement with hypotheses, a state and operands that meet them all -/

theorem witness_decodeEncodeRoundTrip : (Instr.unknown 0xF166).wf = true ∧ (Instr.shl 0x1 0xF).wf = true := by decide

theorem witness_stepRunsDecodedInstruction :
    let s := { State.reset.storeBytes 0xFFE [0x6A, 0x2B] with pc := 0xFFE }
    (s.nextEvent = .step ∧ s.fault = false ∧ s.pc.toNat + 1 < 4096) ∧
    decodeBytes [s.readMem s.pc.toNat, s.readMem (s.pc.toNat + 1)] = .ok (.ldImm 0xA 0x2B, []) :=
  ⟨by decide, rfl⟩

theorem witness_fetchBeyondMemoryTakesFault :
    let s := { State.reset with pc := 0x0FFF }
    let u := { State.reset with pc := 0x10FE }
    (s.nextEvent = .step ∧ s.fault = false ∧ 4096 ≤ s.pc.toNat + 1) ∧
    u.nextEvent = .step ∧ u.fault = false ∧ 4096 ≤ u.pc.toNat + 1 := by decide

theorem witness_tickDecrementsBothTimers : { State.reset with dt := 2, events := [.tick] }.nextEvent = .tick := by decide

theorem witness_driverInputsTouchNothingElse :
    { State.reset with events := [.setKeys 0x0180] }.nextEvent = .setKeys 0x0180 ∧
    { State.reset with events := [.supplyRnd 0xA7] }.nextEvent = .supplyRnd 0xA7 ∧
    { State.reset with events := [.setKey 0xF true] }.nextEvent = .setKey 0xF true := by decide

theorem witness_resetLoadsRomImage (n : Nat) (h : n ≤ 3584) :
    let rom : List Byte := List.replicate n 0xAB
    { State.reset with events := [.reset rom] }.nextEvent = .reset rom ∧ rom.length ≤ 3584 := by
  exact ⟨rfl, by rwa [List.length_replicate]⟩

theorem witness_oversizeRomIsRefused :
    let rom : List Byte := List.replicate 3585 0
    { State.reset with events := [.reset rom] }.nextEvent = .reset rom ∧ 3584 < rom.length :=
  ⟨rfl, by rw [List.length_replicate]; decide⟩

theorem witness_stepKeepsInvariant :
    let s := { (prog 0xF133) with ireg := 0xFFD }
    s.Inv ∧ ∃ t, step s = .next t := ⟨by decide, _, rfl⟩

theorem witness_stepKeepsPcAndStackBounds :
    let s := { prog 0x00EE with sp := 16, stk := Vector.replicate 16 0x1000 }
    s.PcBounded ∧ ∃ t, step s = .next t := ⟨by decide, _, rfl⟩

theorem witness_pcBounded_at_its_limit : { State.reset with pc := 0x10FE }.PcBounded := by decide

theorem witness_reachableStatesMeetInvariants : Reachable (State.reset.resetCore [0x12, 0x00]) :=
  .launch State.reset _ [0x12, 0x00] rfl

theorem witness_fatalErrorsArePrecise :
    let s := { State.reset with sp := 16 }
    s.fault = false ∧ answers (exec (.call 0x300) s) (fun t => t.fault) = true := by decide

theorem witness_fatalErrorsExactlyWhenListed :
    answers (exec .ret State.reset) (fun t => t.fault) = true ∧
    answers (exec (.drw 0x0 0x1 0x2) { State.reset with ireg := 0xFFF }) (fun t => t.fault) = true ∧
    answers (exec (.drw 0x0 0x1 0x1) { State.reset with ireg := 0xFFF }) (fun t => !t.fault) = true ∧
    answers (exec (.drw 0x0 0x1 0x0) { State.reset with ireg := 0xFFF }) (fun t => !t.fault) = true ∧
    answers (exec (.ldBcd 0x0) { State.reset with ireg := 0xFFE }) (fun t => t.fault) = true ∧
    answers (exec (.stRegs 0x1) { State.reset with ireg := 0xFFF }) (fun t => t.fault) = true ∧
    answers (exec (.ldRegs 0x0) { State.reset with ireg := 0xFFF }) (fun t => !t.fault) = true := by decide

theorem witness_onlyResetLeavesFault :
    let s := { State.reset with fault := true, cause := 1 }
    let u := { s with events := [.tick] }
    s.fault = true ∧ s.nextEvent = .step ∧ u.fault = true ∧ u.nextEvent = .tick := by decide

theorem witness_memoryChangesOnlyByStores :
    let s := { prog 0xF055 with ireg := 0x300 }.setV 0x0 0xAB
    ∃ t, step s = .next t ∧ t.mem ≠ s.mem := ⟨_, rfl, by decide⟩

theorem witness_framebufferChangesOnlyByDisplay :
    let s := { prog 0xD001 with ireg := 0x032 }
    ∃ t, step s = .next t ∧ t.fb ≠ s.fb := ⟨_, rfl, by decide⟩

theorem witness_specialRegistersHaveTheirWriters :
    let s := State.reset.setV 0x1 0x05
    answers (exec (.ldI 0x300) s) (fun t => t.ireg != s.ireg) = true ∧
    answers (exec (.call 0x300) s) (fun t => t.stk != s.stk && t.sp != s.sp) = true ∧
    answers (exec (.ldDtVx 0x1) s) (fun t => t.dt != s.dt) = true ∧
    answers (exec (.ldStVx 0x1) s) (fun t => t.st != s.st) = true := by decide

theorem witness_generalRegistersHaveTheirWriters :
    (∃ t, exec (.ldRegs 0x3) State.reset = .next t) ∧ ¬ mayWriteV (.ldRegs 0x3) 0x4 :=
  ⟨⟨_, rfl⟩, by simp [mayWriteV]⟩

theorem witness_instructionsLeaveDriverInputs :
    answers (exec (.rnd 0x1 0xFF) State.reset) (fun t => t.draws != State.reset.draws) = true ∧
    answers (exec (.rnd 0x1 0xFF) { State.reset with rnd := some 0xA7 }) (fun t => t.rnd != some 0xA7) = true := by decide

theorem witness_oneDiagRecordPerUnknownWord :
    ((prog 0x0FFF).Ready ∧ ∃ t, step (prog 0x0FFF) = .next t) ∧
    (prog 0x6A2B).Ready ∧ ∃ t, step (prog 0x6A2B) = .next t :=
  ⟨⟨by decide, _, rfl⟩, by decide, _, rfl⟩

theorem witness_soundTimerIsNeverRead :
    answers (exec (.ldStVx 0x1) { State.reset with st := 7 }) (fun t => t.st != 7) = true ∧
    answers (exec (.ldVxDt 0x1) { State.reset with st := 7 }) (fun t => t.st == 7) = true := by decide

theorem witness_canonicalMemoriesAreDeterminedByReads :
    let m : Memory := Memory.write [] 0x300 5
    let m' : Memory := (Memory.write [] 0x301 1 |>.write 0x300 5).write 0x301 0
    m.wf ∧ m'.wf ∧ ∀ a, m.read a = m'.read a := ⟨by decide, by decide, fun _ => rfl⟩

theorem witness_callPushesOrOverflows :
    ∀ sp ∈ [(0 : Fin 17), 15], ({ State.reset with sp := sp } : State).sp.val < 16 := by decide

theorem witness_callOverflows : ({ State.reset with sp := 16 } : State).sp.val = 16 := by decide

theorem witness_returnPopsOrUnderflows :
    (∀ sp ∈ [(1 : Fin 17), 16], 0 < ({ State.reset with sp := sp } : State).sp.val) ∧ State.reset.sp.val = 0 := by decide

theorem witness_callThenReturnComesBack :
    let s := { (prog 0x2300).storeBytes 0x300 [0x00, 0xEE] with sp := 15 }
    s.Ready ∧ decode s.fetchWord = .call 0x300 ∧ s.sp.val < 16 ∧
      ∃ t, step s = .next t ∧ t.Ready ∧ decode t.fetchWord = .ret :=
  ⟨by decide, by decide, by decide, _, rfl, by decide, by decide⟩

theorem witness_jumpToSelfSpins : (prog 0x1200).Spinning ∧ (prog 0x1200).nextEvent = .step := by decide

theorem witness_flagResultsBesideVf : ∀ x ∈ [(0x0 : Nibble), 0xE], x ≠ 0xF := by decide

theorem witness_randomByteIsMasked :
    (0x0F : Byte).getLsbD 7 = false ∧ { State.reset with rnd := some 0xA7 }.rnd = some 0xA7 ∧ State.reset.rnd = none := by decide

theorem witness_storeBcdDigits :
    let s := { State.reset with ireg := 0xFFD }
    let u := { State.reset with ireg := 0xFFE }
    (s.mem.wf ∧ s.ea 2 < 4096) ∧ u.mem.wf ∧ 4096 ≤ u.ea 2 := by decide

theorem witness_storeAndLoadRegistersUpToX :
    let s := { State.reset with ireg := 0xFF0 }
    let u := { State.reset with ireg := 0xFF1 }
    (s.mem.wf ∧ s.ea (0xF : Nibble).toNat < 4096) ∧ u.mem.wf ∧ 4096 ≤ u.ea (0xF : Nibble).toNat := by decide

theorem witness_nextFetchSeesTheStore :
    let s := { State.reset with ireg := 0x201 }
    let u := { State.reset with ireg := 0xFFD, pc := 0x0FFE }
    let w := { State.reset with ireg := 0xFF0, pc := 0x0FFE }
    (s.mem.wf ∧ s.ea (0x0 : Nibble).toNat < 4096) ∧ (u.mem.wf ∧ u.ea 2 < 4096) ∧
    w.mem.wf ∧ w.ea (0xF : Nibble).toNat < 4096 := by decide

theorem witness_drawTogglesTheSpritePixels :
    ({ State.reset with ireg := 0xFF1 } : State).ireg.toNat + (0xF : Nibble).toNat ≤ 4096 ∧
    State.reset.ireg.toNat + (0x0 : Nibble).toNat ≤ 4096 ∧ State.reset.ireg.toNat + (0x1 : Nibble).toNat ≤ 4096 := by decide

theorem witness_drawCollision :
    (State.reset.readMem (State.reset.ireg.toNat + 0)).getLsbD (7 - 0) = true ∧
    ({ State.reset with fb := togglePixel clearFramebuffer 0 0 } : State).getPixel 0 0 = true ∧
    State.reset.getPixel 0 0 = false := by decide

theorem witness_drawingTwiceRestores : (List.replicate 15 (0xFF : Byte)).length ≤ 15 := by decide

theorem witness_waitForKeyTakesLowestKey :
    let s := { State.reset with keys := 0x0180 }
    let u := { State.reset with keys := 0x8001 }
    (s.keys.getLsbD 7 = true ∧ ∀ j, j < 7 → s.keys.getLsbD j = false) ∧
    u.keys.getLsbD 0 = true ∧ ∀ j, j < 0 → u.keys.getLsbD j = false := by decide

theorem witness_waitForKeyRepeatsUnchanged : (prog 0xF30A).AwaitingKey ∧ (prog 0xF30A).nextEvent = .step :=
  ⟨⟨by decide, by decide, by decide, 0x3, by decide⟩, by decide⟩

theorem witness_unknownWordIsReportedNoOperation :
    (prog 0x01E0).Ready ∧ ∀ r ∈ opcodeRows, r.selects (prog 0x01E0).fetchWord = false := by decide

/-! ### The interface -/

theorem test_core_runs_first_word : (match core.step (State.reset.withFetchWord 16 0x6A2B) with
    | .next t => t.getV 0xA
    | .fault _ => 0
    | .refused _ => 0) = 0x2B := by decide

end Sys2Proof.Tests
end

/-! PROOFS. What one execution can do to the state, said once, and what each field can become. -/

namespace Sys2Proof.Machine

section Registers

variable (i : Instr) (s : State)

/-- A register file that agrees with the one of `s` outside the registers `i` may write (10_state.md R10). -/
def KeepsV (v : Vector Byte 16) : Prop :=
  ∀ y : Nibble, ¬ mayWriteV i y → v[y.toNat]'y.isLt = s.getV y

theorem KeepsV.refl : KeepsV i s s.v := fun _ _ => rfl

variable {i s}

/-- The frame survives a write to a register the instruction may write. -/
theorem KeepsV.set {v : Vector Byte 16} (hv : KeepsV i s v) {x : Nibble} (hx : mayWriteV i x) (b : Byte) :
    KeepsV i s (v.set x.toNat b x.isLt) := fun y hy => by
  have hxy : x.toNat ≠ y.toNat := fun h => hy (BitVec.eq_of_toNat_eq h ▸ hx)
  rw [Vector.getElem_set_ne _ _ hxy]
  exact hv y hy

end Registers

/-- What the execution of `i` on `s` (after the PC advance) can do: a fatal error, or the fields of one kind of instruction.
Every field not named in a constructor keeps its value. -/
inductive Effect (i : Instr) (s : State) : State → Prop where
  /-- A fatal error is taken (60_exceptions.md R157). -/
  | fatal (f : Fault) : Effect i s (s.takeFatal f)
  /-- Only general registers are written. -/
  | registers (v : Vector Byte 16) (hv : KeepsV i s v) : Effect i s { s with v := v }
  /-- Only PC is written; from an in-bounds fetch it stays within the bound of 40_cycle.md R87. -/
  | jump (p : Word) (hp : 2 ≤ s.pc.toNat → s.pc.toNat ≤ 0x1000 → p.toNat ≤ 0x10FE) : Effect i s { s with pc := p }
  /-- A call with room on the stack. -/
  | call (nnn : Addr12) (hi : i = .call nnn) (hsp : s.sp.val < 16) : Effect i s
      { s with stk := s.stk.set s.sp.val s.pc hsp, sp := ⟨s.sp.val + 1, by omega⟩, pc := immTarget nnn }
  /-- A return with a valid entry. -/
  | ret (hi : i = .ret) (hsp : 0 < s.sp.val) : Effect i s
      { s with sp := ⟨s.sp.val - 1, by omega⟩, pc := s.stk[s.sp.val - 1]'(by omega) }
  /-- I is written, and by `Fx1E` also VF. -/
  | address (a : Addr12) (v : Vector Byte 16) (hi : (∃ nnn, i = .ldI nnn) ∨ ∃ x, i = .addI x ∨ i = .ldFont x)
      (hv : KeepsV i s v) : Effect i s { s with ireg := a, v := v }
  /-- A random byte is sampled. -/
  | random (v : Vector Byte 16) (r : Option Byte) (d : Nat) (hi : ∃ x kk, i = .rnd x kk) (hv : KeepsV i s v) :
      Effect i s { s with v := v, rnd := r, draws := d }
  /-- The framebuffer is written, and by `Dxyn` also VF. -/
  | display (fb : Framebuffer) (v : Vector Byte 16) (hi : i = .cls ∨ ∃ x y n, i = .drw x y n) (hv : KeepsV i s v) :
      Effect i s { s with fb := fb, v := v }
  /-- Bytes that all lie in memory are stored. -/
  | store (base : Nat) (bs : List Byte) (hi : ∃ x, i = .ldBcd x ∨ i = .stRegs x)
      (hb : base + bs.length ≤ Config.memSize) : Effect i s (s.storeBytes base bs)
  | delayTimer (b : Byte) (hi : ∃ x, i = .ldDtVx x) : Effect i s { s with dt := b }
  | soundTimer (b : Byte) (hi : ∃ x, i = .ldStVx x) : Effect i s { s with st := b }
  /-- An unknown word is reported (60_exceptions.md R154). -/
  | unknownWord (w : Word) (hi : i = .unknown w) : Effect i s (s.report (.unknownOpcode s.pc0 w))

section Effects

variable {i : Instr} {s t : State}

theorem Effect.setV {x : Nibble} (hx : mayWriteV i x) (b : Byte) : Effect i s (s.setV x b) :=
  .registers _ ((KeepsV.refl i s).set hx b)

theorem Effect.setResultFlag {x : Nibble} (hx : mayWriteV i x) (hf : mayWriteV i vf) (r : Byte) (c : Bool) :
    Effect i s (s.setResultFlag x r c) :=
  .registers _ (((KeepsV.refl i s).set hx r).set hf (flagByte c))

/-- A skip leaves PC at most 0x1002. -/
theorem Effect.skipIf (c : Bool) : Effect i s (s.skipIf c) := by
  cases c with
  | false => exact .registers _ (KeepsV.refl i s)
  | true => exact .jump (s.pc + 2) fun _ _ => by bv_omega

/-- A guarded access has the effect of its work, or takes the fatal error. -/
theorem Effect.guardAccess {last : Nat} {go : State → State} (h : last < Config.memSize → Effect i s (go s)) :
    ∃ t, s.guardAccess last go = .next t ∧ Effect i s t := by
  rcases s.guardAccess_cases last go with ⟨hlast, hgo⟩ | ⟨-, hfatal⟩
  · exact ⟨_, hgo, h hlast⟩
  · exact ⟨_, hfatal, .fatal _⟩

end Effects

@[simp] theorem Memory.length_readBytes (m : Memory) (base n : Nat) : (m.readBytes base n).length = n := by
  simp [Memory.readBytes]

@[simp] theorem State.length_getVs (s : State) (n : Nat) : (s.getVs n).length = n := by
  simp [State.getVs]

/-- Loading registers writes the register file only. -/
theorem State.setVs_eq (s : State) (k : Nat) (bs : List Byte) : s.setVs k bs = { s with v := (s.setVs k bs).v } := by
  induction bs generalizing s k with
  | nil => rfl
  | cons b bs ih => exact ih (s.setV (BitVec.ofNat 4 k) b) (k + 1)

/-- Sampling the random byte writes the driver's two random fields only. -/
theorem State.consumeRnd_eq (s : State) :
    s.consumeRnd = { s with rnd := s.consumeRnd.rnd, draws := s.consumeRnd.draws } := by
  unfold State.consumeRnd
  split <;> rfl

theorem immTarget_toNat (nnn : Addr12) : (immTarget nnn).toNat = nnn.toNat := by
  simp only [immTarget, BitVec.toNat_setWidth]
  omega

/-- V0 + nnn never wraps: it is at most 0xFF + 0xFFF (40_cycle.md R87). -/
theorem indexedTarget_le (b : Byte) (nnn : Addr12) : (indexedTarget b nnn).toNat ≤ 0x10FE := by
  simp only [indexedTarget, BitVec.toNat_add, BitVec.toNat_setWidth]
  omega

section Exec

variable (s : State)

theorem execCall_effect (nnn : Addr12) : ∃ t, execCall nnn s = .next t ∧ Effect (.call nnn) s t := by
  by_cases hsp : s.sp.val < 16
  · exact ⟨_, s.callTo_of_lt _ hsp, .call nnn rfl hsp⟩
  · exact ⟨_, s.callTo_of_full _ (by omega), .fatal _⟩

theorem execRet_effect : ∃ t, execRet s = .next t ∧ Effect .ret s t := by
  by_cases hsp : 0 < s.sp.val
  · exact ⟨_, s.popPc_of_pos hsp, .ret rfl hsp⟩
  · exact ⟨_, s.popPc_of_empty (by omega), .fatal _⟩

theorem execDrw_effect (x y n : Nibble) : ∃ t, execDrw x y n s = .next t ∧ Effect (.drw x y n) s t := by
  have hdraw (sprite : List Byte) : Effect (.drw x y n) s (s.drawSprite (s.getV x) (s.getV y) sprite) :=
    .display _ _ (.inr ⟨x, y, n, rfl⟩) ((KeepsV.refl _ s).set (x := vf) (by simp [mayWriteV, vf]) _)
  unfold execDrw
  split
  · exact ⟨_, rfl, hdraw []⟩
  · exact Effect.guardAccess fun _ => hdraw _

theorem execLdBcd_effect (x : Nibble) : ∃ t, execLdBcd x s = .next t ∧ Effect (.ldBcd x) s t :=
  Effect.guardAccess fun hlast => .store _ _ ⟨x, .inl rfl⟩ (by simp [State.ea, bcdDigits] at hlast ⊢; omega)

theorem execStRegs_effect (x : Nibble) : ∃ t, execStRegs x s = .next t ∧ Effect (.stRegs x) s t :=
  Effect.guardAccess fun hlast => .store _ _ ⟨x, .inr rfl⟩ (by simp [State.ea] at hlast ⊢; omega)

theorem execLdRegs_effect (x : Nibble) : ∃ t, execLdRegs x s = .next t ∧ Effect (.ldRegs x) s t := by
  refine Effect.guardAccess fun _ => ?_
  rw [State.setVs_eq]
  refine .registers _ fun y hy => ?_
  have hyx : ¬ y.toNat ≤ x.toNat := hy
  have hx : x.toNat < 16 := x.isLt
  exact (s.getV_setVs 0 _ (by simp; omega) y).trans (dif_neg (by simp; omega))

theorem execLdVxKey_effect (x : Nibble) : ∃ t, execLdVxKey x s = .next t ∧ Effect (.ldVxKey x) s t := by
  unfold execLdVxKey
  split
  · exact ⟨_, rfl, .jump s.pc0 fun _ _ => by unfold State.pc0; bv_omega⟩
  · exact ⟨_, rfl, .setV (by simp [mayWriteV]) _⟩

theorem execRnd_effect (x : Nibble) (kk : Byte) : ∃ t, execRnd x kk s = .next t ∧ Effect (.rnd x kk) s t := by
  refine ⟨_, rfl, ?_⟩
  rw [State.consumeRnd_eq]
  exact .random _ _ _ ⟨x, kk, rfl⟩ ((KeepsV.refl _ s).set (x := x) (by simp [mayWriteV]) _)

/-- Every execution answers a next state, and what it did is one of the effects. -/
theorem exec_effect (i : Instr) : ∃ t, exec i s = .next t ∧ Effect i s t := by
  cases i with
  | cls => exact ⟨_, rfl, .display _ _ (.inl rfl) (KeepsV.refl _ s)⟩
  | ret => exact execRet_effect s
  | jp nnn => exact ⟨_, rfl, .jump _ fun _ _ => by rw [immTarget_toNat]; omega⟩
  | call nnn => exact execCall_effect s nnn
  | seImm | sneImm | seReg | sneReg | skp | sknp => exact ⟨_, rfl, .skipIf _⟩
  | ldImm | addImm | ldReg | orReg | andReg | xorReg | ldVxDt => exact ⟨_, rfl, .setV (by simp [mayWriteV]) _⟩
  | addReg | subReg | subnReg | shr | shl => exact ⟨_, rfl, .setResultFlag (by simp [mayWriteV]) (by simp [mayWriteV, vf]) _ _⟩
  | ldI nnn => exact ⟨_, rfl, .address nnn _ (.inl ⟨nnn, rfl⟩) (KeepsV.refl _ s)⟩
  | jpV0 nnn => exact ⟨_, rfl, .jump _ fun _ _ => indexedTarget_le _ _⟩
  | rnd x kk => exact execRnd_effect s x kk
  | drw x y n => exact execDrw_effect s x y n
  | ldVxKey x => exact execLdVxKey_effect s x
  | ldDtVx x => exact ⟨_, rfl, .delayTimer _ ⟨x, rfl⟩⟩
  | ldStVx x => exact ⟨_, rfl, .soundTimer _ ⟨x, rfl⟩⟩
  | addI x => exact ⟨_, rfl, .address _ _ (.inr ⟨x, .inl rfl⟩) ((KeepsV.refl _ s).set (x := vf) (by simp [mayWriteV, vf]) _)⟩
  | ldFont x => exact ⟨_, rfl, .address _ _ (.inr ⟨x, .inr rfl⟩) (KeepsV.refl _ s)⟩
  | ldBcd x => exact execLdBcd_effect s x
  | stRegs x => exact execStRegs_effect s x
  | ldRegs x => exact execLdRegs_effect s x
  | unknown w => exact ⟨_, rfl, .unknownWord w rfl⟩

variable {s}

theorem effect_of_exec {i : Instr} {t : State} (h : exec i s = .next t) : Effect i s t := by
  obtain ⟨t', ht', he⟩ := exec_effect s i
  cases ht'.symm.trans h
  exact he

end Exec
end Sys2Proof.Machine

/-! PROOFS. What one step can do: the events of the driver, with the effect of the decoded instruction in a cycle that executes. -/

namespace Sys2Proof.Machine

/-- A step request of a ready core runs the decoded instruction on the advanced PC (40_cycle.md R80, R81). -/
theorem step_of_ready {s : State} (hr : s.Ready) : step s = exec (decode s.fetchWord) s.popEvent.advancePc := by
  obtain ⟨hev, hfault, hfetch⟩ := hr
  rw [step, hev]
  simp [perform, cycle, hfault, hfetch]

/-- What the next step on `s` can do, event by event. -/
inductive StepEffect (s : State) : State → Prop where
  /-- A step request of a faulted core (40_cycle.md R86). -/
  | idle (hev : s.nextEvent = .step) (hf : s.fault = true) : StepEffect s s.popEvent
  /-- A cycle that executes. -/
  | execute {t : State} (hr : s.Ready) (he : Effect (decode s.fetchWord) s.popEvent.advancePc t) : StepEffect s t
  /-- A cycle whose fetch is out of bounds (40_cycle.md R81). -/
  | fetchFault (hev : s.nextEvent = .step) (hf : s.fault = false) (hg : s.fetchable = false) :
      StepEffect s (s.popEvent.takeFatal (.outOfBoundsMemoryAccess s.fetchFaultAddr))
  | tick (hev : s.nextEvent = .tick) : StepEffect s s.popEvent.tick
  | setKeys (keys : Word) (hev : s.nextEvent = .setKeys keys) : StepEffect s { s.popEvent with keys := keys }
  | setKey (index : Nibble) (down : Bool) (hev : s.nextEvent = .setKey index down) :
      StepEffect s { s.popEvent with keys := writeKey s.keys index down }
  | supplyRnd (b : Byte) (hev : s.nextEvent = .supplyRnd b) : StepEffect s { s.popEvent with rnd := some b }
  | reset (rom : List Byte) (hev : s.nextEvent = .reset rom) (hl : rom.length ≤ Config.romMax) :
      StepEffect s (s.popEvent.resetCore rom)

/-- `resetWith` answers a state for an image of legal length only, and then the reset state with the image. -/
theorem State.resetWith_eq_next {s t : State} {rom : List Byte} (h : s.resetWith rom = .next t) :
    rom.length ≤ Config.romMax ∧ t = s.resetCore rom := by
  unfold State.resetWith at h
  split at h <;> cases h
  exact ⟨‹_›, rfl⟩

/-- The cycle of a step request, by the gates of 60_exceptions.md R158. -/
theorem stepEffect_of_cycle {s t : State} (hev : s.nextEvent = .step) (h : cycle s.popEvent = .next t) :
    StepEffect s t := by
  rcases cycle_cases s.popEvent with ⟨hf, hc⟩ | ⟨hf, hg, hc⟩ | ⟨hf, hg, hc⟩
  · cases hc.symm.trans h
    exact .idle hev hf
  · exact .execute ⟨hev, hf, hg⟩ (effect_of_exec (hc.symm.trans h))
  · cases hc.symm.trans h
    exact .fetchFault hev hf hg

theorem stepEffect_of_step {s t : State} (h : step s = .next t) : StepEffect s t := by
  unfold step at h
  cases hev : s.nextEvent with rw [hev] at h
  | step => exact stepEffect_of_cycle hev h
  | tick => cases h; exact .tick hev
  | setKeys keys => cases h; exact .setKeys keys hev
  | setKey index down => cases h; exact .setKey index down hev
  | supplyRnd b => cases h; exact .supplyRnd b hev
  | reset rom =>
    obtain ⟨hl, rfl⟩ := State.resetWith_eq_next h
    exact .reset rom hev hl

end Sys2Proof.Machine

/-! PROOFS. The invariants of 10_state.md R24 and the bounds of 40_cycle.md R87: at reset, over a step, over a run. -/

namespace Sys2Proof.Machine

variable {i : Instr} {s t : State}

/-! ### Canonical memory, and CAUSE = 0 iff FAULT = 0 -/

theorem causeCode_ne_zero (f : Fault) : causeCode f ≠ 0 := by
  cases f <;> simp [causeCode]

theorem State.Inv.takeFatal (hs : s.Inv) (f : Fault) : (s.takeFatal f).Inv :=
  ⟨hs.1, iff_of_false (causeCode_ne_zero f) (by simp)⟩

theorem resetCore_inv (s : State) {rom : List Byte} (hl : rom.length ≤ Config.romMax) : (s.resetCore rom).Inv :=
  ⟨Memory.ofRom_wf rom hl, by simp⟩

/-- Only the stores write memory, and only a fatal error writes FAULT and CAUSE. -/
theorem Effect.inv (he : Effect i s t) (hs : s.Inv) : t.Inv := by
  obtain ⟨hmem, hcause⟩ := hs
  cases he with
  | fatal f => exact State.Inv.takeFatal ⟨hmem, hcause⟩ f
  | store base bs _ hb => exact ⟨s.mem.writeBytes_wf hmem base bs (.inr hb), hcause⟩
  | _ => exact ⟨hmem, hcause⟩

theorem StepEffect.inv (h : StepEffect s t) (hs : s.Inv) : t.Inv := by
  cases h with
  | execute _ he => exact he.inv hs
  | fetchFault => exact State.Inv.takeFatal (s := s.popEvent) hs _
  | reset rom _ hl => exact resetCore_inv _ hl
  | _ => exact hs

/-! ### The bounds on PC and the valid stack entries -/

theorem resetCore_pcBounded (s : State) (rom : List Byte) : (s.resetCore rom).PcBounded :=
  ⟨by simp, fun k hk => absurd hk (by simp)⟩

/-- The valid entries after a push are the pushed one and the valid ones before. -/
theorem stk_le_of_push (hpc : s.pc.toNat ≤ 0x1000) (hstk : ∀ k : Fin 16, k.val < s.sp.val → s.stk[k].toNat ≤ 0x1000)
    (hsp : s.sp.val < 16) (k : Fin 16) (hk : k.val < s.sp.val + 1) :
    (s.stk.set s.sp.val s.pc hsp)[k].toNat ≤ 0x1000 := by
  simp only [Fin.getElem_fin, Vector.getElem_set]
  split
  · exact hpc
  · exact hstk k (by omega)

/-- An instruction fetched in bounds, so that `s.pc` is its address plus 2, keeps the bounds. -/
theorem Effect.pcBounded (he : Effect i s t) (hlo : 2 ≤ s.pc.toNat) (hhi : s.pc.toNat ≤ 0x1000) (hs : s.PcBounded) :
    t.PcBounded := by
  obtain ⟨hpc, hstk⟩ := hs
  cases he with
  | jump p hp => exact ⟨hp hlo hhi, hstk⟩
  | call nnn _ hsp =>
    refine ⟨?_, stk_le_of_push hhi hstk hsp⟩
    rw [immTarget_toNat]
    omega
  | ret _ hsp =>
    have htop : s.stk[s.sp.val - 1].toNat ≤ 0x1000 := hstk ⟨s.sp.val - 1, by omega⟩ (by simp only; omega)
    exact ⟨by simp only; omega, fun k hk => hstk k (by simp only at hk; omega)⟩
  | _ => exact ⟨hpc, hstk⟩

/-- An in-bounds fetch advances PC to between 2 and 0x1000. -/
theorem advancePc_bounds (h : s.fetchable = true) : 2 ≤ s.advancePc.pc.toNat ∧ s.advancePc.pc.toNat ≤ 0x1000 := by
  simp only [State.fetchable, memSize_eq, decide_eq_true_eq] at h
  rw [State.advancePc_pc]
  bv_omega

theorem StepEffect.pcBounded (h : StepEffect s t) (hs : s.PcBounded) : t.PcBounded := by
  cases h with
  | execute hr he =>
    obtain ⟨-, -, hfetch⟩ := hr
    obtain ⟨hlo, hhi⟩ := advancePc_bounds (s := s.popEvent) hfetch
    exact he.pcBounded hlo hhi ⟨by omega, hs.2⟩
  | reset rom => exact resetCore_pcBounded _ rom
  | _ => exact hs

/-- Settles O16: the stores are bounds-checked, so they keep the canonical form, and a fatal error writes FAULT and a CAUSE
that is not 0 together. -/
theorem stepKeepsInvariant : Obligations.StepKeepsInvariant :=
  fun _ _ hs h => (stepEffect_of_step h).inv hs

/-- Settles O15: an empty cell list is canonical, and FAULT and CAUSE are both clear. -/
theorem invariantHoldsAtReset : Obligations.InvariantHoldsAtReset :=
  resetCore_inv State.reset (rom := []) (Nat.zero_le _)

/-- Settles O18, by induction on the run. -/
theorem reachableStatesMeetInvariants : Obligations.ReachableStatesMeetInvariants := by
  intro s hs
  induction hs with
  | launch s t rom h =>
    obtain ⟨hl, rfl⟩ := State.resetWith_eq_next h
    exact ⟨resetCore_inv s hl, resetCore_pcBounded s rom⟩
  | next s t _ h ih =>
    obtain ⟨hinv, hbounds⟩ := ih
    exact ⟨(stepEffect_of_step h).inv hinv, (stepEffect_of_step h).pcBounded hbounds⟩

end Sys2Proof.Machine

/-! PROOFS. Which instructions write which registers and driver inputs (10_state.md R10 to R16, R27, R28). -/

namespace Sys2Proof.Machine

variable {i : Instr} {s t : State}

theorem Effect.ireg_eq_or (he : Effect i s t) :
    t.ireg = s.ireg ∨ (∃ nnn, i = .ldI nnn) ∨ ∃ x, i = .addI x ∨ i = .ldFont x := by
  cases he with
  | address _ _ hi => exact .inr hi
  | _ => exact .inl rfl

theorem Effect.stk_eq_or (he : Effect i s t) : t.stk = s.stk ∨ ∃ nnn, i = .call nnn := by
  cases he with
  | call nnn hi => exact .inr ⟨nnn, hi⟩
  | _ => exact .inl rfl

theorem Effect.sp_eq_or (he : Effect i s t) : t.sp = s.sp ∨ (∃ nnn, i = .call nnn) ∨ i = .ret := by
  cases he with
  | call nnn hi => exact .inr (.inl ⟨nnn, hi⟩)
  | ret hi => exact .inr (.inr hi)
  | _ => exact .inl rfl

theorem Effect.dt_eq_or (he : Effect i s t) : t.dt = s.dt ∨ ∃ x, i = .ldDtVx x := by
  cases he with
  | delayTimer _ hi => exact .inr hi
  | _ => exact .inl rfl

theorem Effect.st_eq_or (he : Effect i s t) : t.st = s.st ∨ ∃ x, i = .ldStVx x := by
  cases he with
  | soundTimer _ hi => exact .inr hi
  | _ => exact .inl rfl

theorem Effect.getV_eq (he : Effect i s t) {y : Nibble} (hy : ¬ mayWriteV i y) : t.getV y = s.getV y := by
  cases he with
  | registers _ hv | address _ _ _ hv | random _ _ _ _ hv | display _ _ _ hv => exact hv y hy
  | _ => rfl

theorem Effect.keys_eq (he : Effect i s t) : t.keys = s.keys := by
  cases he <;> rfl

theorem Effect.events_eq (he : Effect i s t) : t.events = s.events := by
  cases he <;> rfl

theorem Effect.rnd_draws_eq_or (he : Effect i s t) :
    (t.rnd = s.rnd ∧ t.draws = s.draws) ∨ ∃ x kk, i = .rnd x kk := by
  cases he with
  | random _ _ _ hi => exact .inr hi
  | _ => exact .inl ⟨rfl, rfl⟩

/-- Settles O24: each of the five registers is unchanged or the instruction is one of its writers. -/
theorem specialRegistersHaveTheirWriters : Obligations.SpecialRegistersHaveTheirWriters := by
  intro i s t h
  have he := effect_of_exec h
  exact ⟨he.ireg_eq_or.resolve_left, he.stk_eq_or.resolve_left, he.sp_eq_or.resolve_left,
    he.dt_eq_or.resolve_left, he.st_eq_or.resolve_left⟩

/-- Settles O25: every effect writes registers inside `mayWriteV` only. -/
theorem generalRegistersHaveTheirWriters : Obligations.GeneralRegistersHaveTheirWriters :=
  fun _ _ _ _ h hy => (effect_of_exec h).getV_eq hy

/-- Settles O26: no effect names keys or events, and only the sampling of `Cxkk` names the random byte. -/
theorem instructionsLeaveDriverInputs : Obligations.InstructionsLeaveDriverInputs := by
  intro i s t h
  have he := effect_of_exec h
  refine ⟨he.keys_eq, he.events_eq, fun hne => he.rnd_draws_eq_or.resolve_left ?_⟩
  rintro ⟨hrnd, hdraws⟩
  exact hne.elim (· hrnd) (· hdraws)

end Sys2Proof.Machine

/-! PROOFS. The driver's inputs, the `diag` records, the sound timer and the state right after reset. -/

namespace Sys2Proof.Machine

variable {i : Instr} {s t : State}

/-! ### The key and random-byte events -/

theorem getLsbD_writeKey (keys : Word) (index k : Nibble) (down : Bool) :
    (writeKey keys index down).getLsbD k.toNat = if k = index then down else keys.getLsbD k.toNat := by
  have hk : k.toNat < 16 := k.isLt
  have hbit : (BitVec.twoPow 16 index.toNat).getLsbD k.toNat = decide (k = index) := by
    have hindex : index.toNat < 16 := index.isLt
    simp [BitVec.getLsbD_twoPow, hindex, BitVec.toNat_inj, eq_comm]
  cases down with
  | true =>
    rw [writeKey, if_pos rfl, BitVec.getLsbD_or, hbit]
    by_cases h : k = index <;> simp [h]
  | false =>
    rw [writeKey, if_neg Bool.false_ne_true, BitVec.getLsbD_and, BitVec.getLsbD_not, hbit]
    by_cases h : k = index <;> simp [h, hk]

/-- Settles O10: the three events by definition, and `setKey` bit by bit. -/
theorem driverInputsTouchNothingElse : Obligations.DriverInputsTouchNothingElse := by
  refine fun s => ⟨fun ks hev => ?_, fun b hev => ?_, fun index down hev => ?_⟩
  · rw [step, hev]; rfl
  · rw [step, hev]; rfl
  · rw [step, hev]
    exact ⟨_, rfl, rfl, fun k => getLsbD_writeKey s.keys index k down⟩

/-! ### One `diag` record per unknown word -/

theorem State.diagRecords_report (s : State) (pc0 w : Word) :
    (s.report (.unknownOpcode pc0 w)).diagRecords = s.diagRecords ++ [(pc0, w)] := by
  simp [State.diagRecords]

theorem State.diagRecords_takeFatal (s : State) (f : Fault) : (s.takeFatal f).diagRecords = s.diagRecords := by
  simp [State.diagRecords]

theorem Effect.diagRecords_eq (he : Effect i s t) (hi : ∀ w, i ≠ .unknown w) : t.diagRecords = s.diagRecords := by
  cases he with
  | fatal f => exact s.diagRecords_takeFatal f
  | unknownWord w hw => exact absurd hw (hi w)
  | _ => rfl

/-- Every arm of the decoder that answers `unknown` carries the decoded word. -/
theorem eq_of_decode_eq_unknown {w u : Word} (h : decode w = .unknown u) : u = w := by
  unfold decode decodeOp0 decodeOp5 decodeOp8 decodeOp9 decodeOpE decodeOpF at h
  repeat' split at h
  all_goals cases h
  all_goals rfl

/-- Settles O27: an unknown word is reported with its address, and no other effect delivers a `diag` record. -/
theorem oneDiagRecordPerUnknownWord : Obligations.OneDiagRecordPerUnknownWord := by
  intro s t hr h
  rw [step_of_ready hr] at h
  split
  next u hu =>
    rw [hu] at h
    cases h
    rw [State.diagRecords_report, eq_of_decode_eq_unknown hu, State.pc0_advancePc]
    rfl
  next hne =>
    rw [List.append_nil]
    exact (effect_of_exec h).diagRecords_eq hne

/-! ### ST is never read -/

/-- The state with another value of ST. -/
def State.withSt (s : State) (b : Byte) : State := { s with st := b }

theorem State.skipIf_withSt (s : State) (b : Byte) (c : Bool) : (s.withSt b).skipIf c = (s.skipIf c).withSt b := by
  cases c <;> rfl

theorem State.setVs_withSt (s : State) (b : Byte) (k : Nat) (bs : List Byte) :
    (s.withSt b).setVs k bs = (s.setVs k bs).withSt b := by
  induction bs generalizing s k with
  | nil => rfl
  | cons c bs ih => exact ih (s.setV (BitVec.ofNat 4 k) c) (k + 1)

theorem State.consumeRnd_withSt (s : State) (b : Byte) : (s.withSt b).consumeRnd = s.consumeRnd.withSt b := by
  cases hr : s.rnd <;> simp [State.consumeRnd, State.withSt, hr]

/-- A guarded access does not read ST when its work does not. -/
theorem State.guardAccess_withSt {s t : State} {b : Byte} {last : Nat} {go : State → State}
    (hgo : go (s.withSt b) = (go s).withSt b) (h : s.guardAccess last go = .next t) :
    (s.withSt b).guardAccess last go = .next (t.withSt b) := by
  unfold State.guardAccess at h ⊢
  split at h <;> cases h
  · rw [if_pos ‹_›, hgo]
  · rw [if_neg ‹_›]; rfl

/-- No instruction but `Fx18` reads or writes ST, so another value of ST stays to the end and changes nothing else. -/
theorem exec_withSt {b : Byte} (hi : ∀ x, i ≠ .ldStVx x) (h : exec i s = .next t) :
    exec i (s.withSt b) = .next (t.withSt b) := by
  cases i with
  | ret =>
    by_cases hsp : 0 < s.sp.val
    · cases (s.popPc_of_pos hsp).symm.trans h
      exact (s.withSt b).popPc_of_pos hsp
    · cases (s.popPc_of_empty (by omega)).symm.trans h
      exact (s.withSt b).popPc_of_empty (by simp only [State.withSt]; omega)
  | call nnn =>
    by_cases hsp : s.sp.val < 16
    · cases (s.callTo_of_lt _ hsp).symm.trans h
      exact (s.withSt b).callTo_of_lt _ hsp
    · cases (s.callTo_of_full _ (by omega)).symm.trans h
      exact (s.withSt b).callTo_of_full _ (by simp only [State.withSt]; omega)
  | seImm | sneImm | seReg | sneReg | skp | sknp =>
    cases h
    exact congrArg Host.Outcome.next (s.skipIf_withSt b _)
  | rnd x kk =>
    cases h
    exact congrArg (fun u => Host.Outcome.next (u.setV x (s.rndByte &&& kk))) (s.consumeRnd_withSt b)
  | drw x y n =>
    simp only [exec, execDrw] at h ⊢
    by_cases hn : n = 0
    · simp only [if_pos hn] at h ⊢
      cases h; rfl
    · simp only [if_neg hn] at h ⊢
      exact State.guardAccess_withSt rfl h
  | ldVxKey x =>
    simp only [exec, execLdVxKey, State.withSt] at h ⊢
    split at h <;> cases h <;> rfl
  | ldBcd x | stRegs x =>
    simp only [exec, execLdBcd, execStRegs] at h
    exact State.guardAccess_withSt (b := b) rfl h
  | ldRegs x =>
    simp only [exec, execLdRegs] at h
    exact State.guardAccess_withSt (s.setVs_withSt b _ _) h
  | ldStVx x => exact absurd rfl (hi x)
  | _ => cases h; rfl

/-- Settles O29: `Fx18` overwrites ST by V[x], and every other instruction carries ST along. -/
theorem soundTimerIsNeverRead : Obligations.SoundTimerIsNeverRead := by
  intro i s t b h
  by_cases hi : ∃ x, i = .ldStVx x
  · obtain ⟨x, rfl⟩ := hi
    cases h
    exact ⟨s.getV x, rfl, fun _ => .inr ⟨x, rfl⟩⟩
  · exact ⟨b, exec_withSt (not_exists.mp hi) h, fun _ => .inl rfl⟩

/-! ### The state right after reset -/

theorem getPixel_reset (tx : Fin 64) (ty : Fin 32) : State.reset.getPixel tx ty = false := by
  simp [State.getPixel, readPixel, State.reset]

/-- Settles O12: the fields of the reset state, and glyph A read from the font. -/
theorem resetStateStartsAtRomBase : Obligations.ResetStateStartsAtRomBase :=
  ⟨rfl, getPixel_reset, rfl, rfl, by decide⟩

end Sys2Proof.Machine

/-! PROOFS. Memory (20_memory.md): its big-endian words, its writers, its canonical form, and the fetch after a store. -/

namespace Sys2Proof.Machine

variable {i : Instr} {s t : State}

/-! ### Big-endian words -/

theorem wordOfBytes_toNat (hi lo : Byte) : (wordOfBytes hi lo).toNat = hi.toNat * 256 + lo.toNat := by
  have hlo : lo.toNat < 2 ^ 8 := lo.isLt
  rw [wordOfBytes, BitVec.toNat_cast, BitVec.toNat_append, ← Nat.shiftLeft_add_eq_or_of_lt hlo, Nat.shiftLeft_eq]

theorem State.fetchWord_toNat (s : State) :
    s.fetchWord.toNat = (s.readMem s.pc.toNat).toNat * 256 + (s.readMem (s.pc.toNat + 1)).toNat :=
  wordOfBytes_toNat _ _

/-- Settles O6: decoder and fetch both read their word through `wordOfBytes`. -/
theorem bytesAndFetchAreBigEndian : Obligations.BytesAndFetchAreBigEndian := by
  refine ⟨fun hi lo rest => ⟨?_, rfl, rfl⟩, State.fetchWord_toNat⟩
  rw [← wordOfBytes_toNat, BitVec.ofNat_toNat, BitVec.setWidth_eq]
  rfl

/-! ### The writers of memory -/

theorem Effect.mem_eq_or (he : Effect i s t) : t.mem = s.mem ∨ ∃ x, i = .ldBcd x ∨ i = .stRegs x := by
  cases he with
  | store _ _ hi => exact .inr hi
  | _ => exact .inl rfl

/-- Settles O22: of the events only reset and a cycle that executes may write memory, and of the effects only a store. -/
theorem memoryChangesOnlyByStores : Obligations.MemoryChangesOnlyByStores := by
  intro s t h hne
  cases stepEffect_of_step h with
  | execute hr he => exact .inr ⟨hr, he.mem_eq_or.resolve_left hne⟩
  | reset rom hev => exact .inl ⟨rom, hev⟩
  | _ => exact absurd rfl hne

/-! ### The canonical form -/

/-- Where addresses rise, a listed cell is what its address reads as. -/
theorem Memory.read_of_mem {m : Memory} (h : m.Pairwise (fun c d => c.1 < d.1)) {c : Host.Cell} (hc : c ∈ m) :
    m.read c.1 = c.2 := by
  induction m with
  | nil => cases hc
  | cons d m ih =>
    obtain ⟨hlt, hm⟩ := List.pairwise_cons.1 h
    rcases List.mem_cons.1 hc with rfl | hc
    · exact if_pos rfl
    · exact (if_neg (hlt c hc).ne).trans (ih hm hc)

/-- An address that does not read as its reset byte is listed. -/
theorem Memory.mem_of_read_ne {m : Memory} {a : Nat} (h : m.read a ≠ resetByte a) : (a, m.read a) ∈ m := by
  induction m with
  | nil => exact absurd rfl h
  | cons d m ih =>
    obtain ⟨k, b⟩ := d
    unfold Memory.read at h ⊢
    split at h
    next hk => rw [if_pos hk, hk]; exact List.mem_cons_self
    next hk => rw [if_neg hk]; exact List.mem_cons_of_mem _ (ih h)

/-- The cells of a canonical memory are its readings that differ from the reset contents. -/
theorem Memory.wf.mem_iff {m : Memory} (h : m.wf) (c : Host.Cell) :
    c ∈ m ↔ m.read c.1 = c.2 ∧ c.2 ≠ resetByte c.1 := by
  obtain ⟨hrise, hcells⟩ := h
  constructor
  · exact fun hc => ⟨Memory.read_of_mem hrise hc, (hcells c hc).2⟩
  · rintro ⟨hread, hne⟩
    rw [← hread] at hne
    simpa [hread] using Memory.mem_of_read_ne hne

/-- Settles O30: the readings fix which cells are listed, and rising addresses fix their order. -/
theorem canonicalMemoriesAreDeterminedByReads : Obligations.CanonicalMemoriesAreDeterminedByReads := by
  intro m m' h h' hread
  have : Std.Asymm fun c d : Host.Cell => c.1 < d.1 := ⟨fun _ _ => lt_asymm⟩
  exact h.1.eq_of_mem_iff h'.1 fun c => by rw [h.mem_iff, h'.mem_iff, hread]

/-! ### A store and the next fetch -/

theorem exec_stRegs_of_lt (x : Nibble) (h : s.ea x.toNat < Config.memSize) :
    exec (.stRegs x) s = .next (s.storeBytes (s.ea 0) (s.getVs (x.toNat + 1))) := if_pos h

theorem exec_ldBcd_of_lt (x : Nibble) (h : s.ea 2 < Config.memSize) :
    exec (.ldBcd x) s = .next (s.storeBytes (s.ea 0) (bcdDigits (s.getV x))) := if_pos h

/-- A read after a store: the stored byte inside the range, the old byte outside. -/
theorem State.readMem_storeBytes (hm : s.mem.wf) (base : Nat) (bs : List Byte) (a : Nat) :
    (s.storeBytes base bs).readMem a = if base ≤ a then bs.getD (a - base) (s.readMem a) else s.readMem a :=
  s.mem.read_writeBytes hm.1 base bs a

theorem State.getD_getVs (s : State) (n k : Nat) (b : Byte) :
    (s.getVs n).getD k b = if k < n then s.getV (BitVec.ofNat 4 k) else b := by
  by_cases hk : k < n <;> simp [State.getVs, hk]

/-- A read after `Fx55`: V[k] at EA(k) for every k up to x (43_address_memory.md R124). -/
theorem State.readMem_storeBytes_getVs (hm : s.mem.wf) (x : Nibble) (a : Nat) :
    (s.storeBytes (s.ea 0) (s.getVs (x.toNat + 1))).readMem a =
      if s.ea 0 ≤ a ∧ a ≤ s.ea x.toNat then s.getV (BitVec.ofNat 4 (a - s.ea 0)) else s.readMem a := by
  have hlast : s.ea x.toNat = s.ea 0 + x.toNat := rfl
  rw [State.readMem_storeBytes hm, State.getD_getVs, ← ite_and]
  exact if_congr (by omega) rfl rfl

theorem toNat_getD_bcdDigits (b c : Byte) (k : Nat) :
    ((bcdDigits b).getD k c).toNat =
      if k = 0 then b.toNat / 100
      else if k = 1 then b.toNat / 10 % 10
      else if k = 2 then b.toNat % 10
      else c.toNat := by
  have hb : b.toNat < 256 := b.isLt
  match k with
  | 0 | 1 | 2 => simp [bcdDigits]; omega
  | k + 3 => simp [bcdDigits]

/-- A read after `Fx33`: the three digits at EA(0), EA(1), EA(2) (43_address_memory.md R123). -/
theorem State.readMem_storeBytes_bcdDigits (hm : s.mem.wf) (b : Byte) (a : Nat) :
    ((s.storeBytes (s.ea 0) (bcdDigits b)).readMem a).toNat =
      if a = s.ea 0 then b.toNat / 100
      else if a = s.ea 1 then b.toNat / 10 % 10
      else if a = s.ea 2 then b.toNat % 10
      else (s.readMem a).toNat := by
  have h1 : s.ea 1 = s.ea 0 + 1 := rfl
  have h2 : s.ea 2 = s.ea 0 + 2 := rfl
  rw [State.readMem_storeBytes hm, h1, h2]
  by_cases ha : s.ea 0 ≤ a
  · obtain ⟨k, rfl⟩ := Nat.exists_eq_add_of_le ha
    rw [if_pos ha, Nat.add_sub_cancel_left, toNat_getD_bcdDigits]
    simp
  · rw [if_neg ha, if_neg (by omega), if_neg (by omega), if_neg (by omega)]

/-- Settles O51: the next fetch reads two bytes of the memory the store left, PC being kept. -/
theorem nextFetchSeesTheStore : Obligations.NextFetchSeesTheStore := by
  intro x s hm
  refine ⟨fun hx => ⟨_, exec_stRegs_of_lt x hx, rfl, ?_⟩, fun h2 => ⟨_, exec_ldBcd_of_lt x h2, rfl, ?_⟩⟩
  · simp only [State.fetchWord_toNat, State.storeBytes_pc, State.readMem_storeBytes_getVs hm]
  · simp only [State.fetchWord_toNat, State.storeBytes_pc, State.readMem_storeBytes_bcdDigits hm]

end Sys2Proof.Machine

/-! PROOFS. The decoder (30_encoding.md): decode of encode, encode of decode, and the rows of the opcode table. -/

namespace Sys2Proof

variable {w v : Word}

/-! ### A word is its fields -/

/-- Format NNN holds every bit of the word. -/
theorem packNNN_fields (w : Word) : packNNN (fieldOp w) (fieldNNN w) = w := by
  apply BitVec.eq_of_getLsbD_eq
  intro i hi
  simp only [fieldOp, fieldNNN, packNNN, BitVec.getLsbD_extractLsb', BitVec.getLsbD_cast, BitVec.getLsbD_append]
  interval_cases i <;> simp

/-- Format XKK holds every bit of the word. -/
theorem packXKK_fields (w : Word) : packXKK (fieldOp w) (fieldX w) (fieldKK w) = w := by
  apply BitVec.eq_of_getLsbD_eq
  intro i hi
  simp only [fieldOp, fieldX, fieldKK, packXKK, BitVec.getLsbD_extractLsb', BitVec.getLsbD_cast, BitVec.getLsbD_append]
  interval_cases i <;> simp

/-- Format XYN holds every bit of the word. -/
theorem packXYN_fields (w : Word) : packXYN (fieldOp w) (fieldX w) (fieldY w) (fieldN w) = w := by
  apply BitVec.eq_of_getLsbD_eq
  intro i hi
  simp only [fieldOp, fieldX, fieldY, fieldN, packXYN, BitVec.getLsbD_extractLsb', BitVec.getLsbD_cast, BitVec.getLsbD_append]
  interval_cases i <;> simp

theorem packNNN_eq {op : Nibble} (hop : (fieldOp w).toNat = op.toNat) : packNNN op (fieldNNN w) = w := by
  rw [← BitVec.eq_of_toNat_eq hop, packNNN_fields]

theorem packXKK_eq {op : Nibble} {kk : Byte} (hop : (fieldOp w).toNat = op.toNat) (hkk : (fieldKK w).toNat = kk.toNat) :
    packXKK op (fieldX w) kk = w := by
  rw [← BitVec.eq_of_toNat_eq hop, ← BitVec.eq_of_toNat_eq hkk, packXKK_fields]

theorem packXYN_eq {op n : Nibble} (hop : (fieldOp w).toNat = op.toNat) (hn : (fieldN w).toNat = n.toNat) :
    packXYN op (fieldX w) (fieldY w) n = w := by
  rw [← BitVec.eq_of_toNat_eq hop, ← BitVec.eq_of_toNat_eq hn, packXYN_fields]

/-! ### Encoding what a word decodes to -/

theorem encode_decodeOp0 : encode (decodeOp0 w) = w := by
  unfold decodeOp0
  split
  · exact (BitVec.eq_of_toNat_eq ‹_›).symm
  · exact (BitVec.eq_of_toNat_eq ‹_›).symm
  · rfl

theorem encode_decodeOp5 (hop : (fieldOp w).toNat = 0x5) : encode (decodeOp5 w) = w := by
  unfold decodeOp5
  split
  · exact packXYN_eq hop ‹_›
  · rfl

theorem encode_decodeOp8 (hop : (fieldOp w).toNat = 0x8) : encode (decodeOp8 w) = w := by
  unfold decodeOp8
  split
  case h_10 => rfl
  all_goals exact packXYN_eq hop ‹_›

theorem encode_decodeOp9 (hop : (fieldOp w).toNat = 0x9) : encode (decodeOp9 w) = w := by
  unfold decodeOp9
  split
  · exact packXYN_eq hop ‹_›
  · rfl

theorem encode_decodeOpE (hop : (fieldOp w).toNat = 0xE) : encode (decodeOpE w) = w := by
  unfold decodeOpE
  split
  · exact packXKK_eq hop ‹_›
  · exact packXKK_eq hop ‹_›
  · rfl

theorem encode_decodeOpF (hop : (fieldOp w).toNat = 0xF) : encode (decodeOpF w) = w := by
  unfold decodeOpF
  split
  case h_10 => rfl
  all_goals exact packXKK_eq hop ‹_›

/-- No arm of the decoder loses a bit. (The arm `h_k` of the dispatch is op = k - 1.) -/
theorem encode_decode (w : Word) : encode (decode w) = w := by
  unfold decode
  split
  case h_1 => exact encode_decodeOp0
  case h_6 hop => exact encode_decodeOp5 hop
  case h_9 hop => exact encode_decodeOp8 hop
  case h_10 hop => exact encode_decodeOp9 hop
  case h_15 hop => exact encode_decodeOpE hop
  case h_16 hop => exact encode_decodeOpF hop
  case h_2 hop | h_3 hop | h_11 hop | h_12 hop => exact packNNN_eq hop
  case h_4 hop | h_5 hop | h_7 hop | h_8 hop | h_13 hop => exact packXKK_eq hop rfl
  case h_14 hop => exact packXYN_eq hop rfl
  case h_17 => rfl

/-! ### The rows of the opcode table -/

/-- The decoder dispatches on `op`, and below it on the whole word (op = 0), on `n` (5, 8, 9) or on `kk` (E, F): words that agree
there decode to the same row (30_encoding.md R63). -/
theorem row_decode_congr (hop : fieldOp w = fieldOp v) (h0 : (fieldOp v).toNat = 0x0 → w = v)
    (hn : (fieldOp v).toNat ∈ [0x5, 0x8, 0x9] → fieldN w = fieldN v)
    (hkk : (fieldOp v).toNat ∈ [0xE, 0xF] → fieldKK w = fieldKK v) : (decode w).row = (decode v).row := by
  unfold decode
  rw [hop]
  split
  case h_1 h => rw [h0 h]
  case h_6 h | h_9 h | h_10 h =>
    simp only [decodeOp5, decodeOp8, decodeOp9, hn (by simp [h])]
    split <;> rfl
  case h_15 h | h_16 h =>
    simp only [decodeOpE, decodeOpF, hkk (by simp [h])]
    split <;> rfl
  all_goals rfl

/-- The mask of a row covers every field the decoder dispatches on for that row. -/
theorem mask_covers_dispatch : ∀ r ∈ opcodeRows,
    fieldOp r.mask = 0xF ∧
    ((fieldOp r.value).toNat = 0x0 → r.mask = 0xFFFF) ∧
    ((fieldOp r.value).toNat ∈ [0x5, 0x8, 0x9] → fieldN r.mask = 0xF) ∧
    ((fieldOp r.value).toNat ∈ [0xE, 0xF] → fieldKK r.mask = 0xFF) := by decide

/-- The match value of a row, its operand fields 0, decodes to that row. -/
theorem row_decode_value : ∀ r ∈ opcodeRows, (decode r.value).row = r.number := by decide

/-- A row is known by its number: it stands at that place in the table. -/
theorem opcodeRow_eq_of_number {r r' : OpcodeRow} (hr : r ∈ opcodeRows) (hr' : r' ∈ opcodeRows)
    (h : r.number = r'.number) : r = r' := by
  have hplace : ∀ q ∈ opcodeRows, opcodeRows[q.number - 1]? = some q := by decide
  exact Option.some.inj ((hplace r hr).symm.trans (h ▸ hplace r' hr'))

/-- Row 35 is "anything else": no row of the table has its number. -/
theorem opcodeRow_number_ne : ∀ r ∈ opcodeRows, r.number ≠ 35 := by decide

/-- A field that the mask covers is the field of the masked word. -/
theorem extractLsb'_eq_of_and {m : Word} {start len : Nat} (hm : m.extractLsb' start len = BitVec.allOnes len)
    (h : w &&& m = v) : w.extractLsb' start len = v.extractLsb' start len := by
  rw [← h, BitVec.extractLsb'_and, hm, BitVec.and_allOnes]

/-- A word that fits a row decodes to it. -/
theorem row_decode_of_selects {r : OpcodeRow} (hr : r ∈ opcodeRows) (h : w &&& r.mask = r.value) :
    (decode w).row = r.number := by
  obtain ⟨hop, h0, hn, hkk⟩ := mask_covers_dispatch r hr
  have hagree : (decode w).row = (decode r.value).row := by
    refine row_decode_congr (extractLsb'_eq_of_and hop h) (fun hv => ?_)
      (fun hv => extractLsb'_eq_of_and (hn hv) h) (fun hv => extractLsb'_eq_of_and (hkk hv) h)
    rw [← h, h0 hv]
    exact BitVec.and_allOnes.symm
  rw [hagree, row_decode_value r hr]

section RowSelects

open Laws.RowSelects

/-- The family RowSelects for every instruction. -/
theorem rowSelects (i : Instr) : Statement i := by
  cases i
  exacts [cls, ret, jp _, call _, seImm _ _, sneImm _ _, seReg _ _, ldImm _ _, addImm _ _, ldReg _ _, orReg _ _, andReg _ _,
    xorReg _ _, addReg _ _, subReg _ _, shr _ _, subnReg _ _, shl _ _, sneReg _ _, ldI _, jpV0 _, rnd _ _, drw _ _ _, skp _,
    sknp _, ldVxDt _, ldVxKey _, ldDtVx _, ldStVx _, addI _, ldFont _, ldBcd _, stRegs _, ldRegs _, unknown _]

end RowSelects

/-- An instruction is the unknown row or stands for a word, at one of the 34 places of the table. -/
theorem Instr.unknown_or_row_lt (i : Instr) :
    (∃ w, i = .unknown w) ∨ (i.wf = true ∧ i.row - 1 < opcodeRows.length) := by
  cases i with
  | unknown w => exact .inl ⟨w, rfl⟩
  | _ => exact .inr ⟨rfl, Nat.le_of_ble_eq_true rfl⟩

/-- An instruction is the unknown row or its word fits the row of its number. -/
theorem Instr.unknown_or_selects (i : Instr) :
    (∃ w, i = .unknown w) ∨ ∃ r ∈ opcodeRows, i.row = r.number ∧ encode i &&& r.mask = r.value := by
  refine i.unknown_or_row_lt.imp_right fun ⟨hwf, hlt⟩ => ?_
  have hrow := rowSelects i hwf
  rw [List.getElem?_eq_getElem hlt] at hrow
  obtain ⟨hnumber, hsel⟩ := hrow
  exact ⟨_, List.getElem_mem hlt, hnumber.symm, of_decide_eq_true hsel⟩

theorem wf_unknown_iff : (Instr.unknown w).wf = true ↔ ∀ r ∈ opcodeRows, w &&& r.mask ≠ r.value := by
  simp [Instr.wf, OpcodeRow.selects]

/-- The unknown words are those that fit no row (30_encoding.md R65, R66). -/
theorem decode_eq_unknown_iff : decode w = .unknown w ↔ ∀ r ∈ opcodeRows, w &&& r.mask ≠ r.value := by
  constructor
  · intro hd r hr hsel
    have hrow := row_decode_of_selects hr hsel
    rw [hd] at hrow
    exact opcodeRow_number_ne r hr hrow.symm
  · intro hnone
    rcases (decode w).unknown_or_selects with ⟨u, hu⟩ | ⟨r, hr, -, hsel⟩
    · rw [hu, Machine.eq_of_decode_eq_unknown hu]
    · rw [encode_decode] at hsel
      exact absurd hsel (hnone r hr)

theorem wf_decode (w : Word) : (decode w).wf = true := by
  cases hd : decode w with
  | unknown u =>
    cases Machine.eq_of_decode_eq_unknown hd
    exact wf_unknown_iff.2 (decode_eq_unknown_iff.1 hd)
  | _ => rfl

/-- Settles O3: no arm of the decoder loses a bit, and it answers `unknown` only for a word that fits no row. -/
theorem encodeDecodeRoundTrip : Obligations.EncodeDecodeRoundTrip :=
  fun w => ⟨encode_decode w, wf_decode w⟩

/-- Settles O2: the fields of a packed word are the operands, and an unknown word that is well formed fits no row. -/
theorem decodeEncodeRoundTrip : Obligations.DecodeEncodeRoundTrip := by
  intro i hwf
  cases i with
  | cls | ret => rfl
  | jp | call | ldI | jpV0 => simp [encode, decode]
  | seImm | sneImm | ldImm | addImm | rnd => simp [encode, decode]
  | ldReg | orReg | andReg | xorReg | addReg | subReg | shr | subnReg | shl => simp [encode, decode, decodeOp8]
  | seReg | sneReg | drw => simp [encode, decode, decodeOp5, decodeOp9]
  | skp | sknp => simp [encode, decode, decodeOpE]
  | ldVxDt | ldVxKey | ldDtVx | ldStVx | addI | ldFont | ldBcd | stRegs | ldRegs => simp [encode, decode, decodeOpF]
  | unknown w => exact decode_eq_unknown_iff.2 (wf_unknown_iff.1 hwf)

/-- Settles O4: a word that fits a row decodes to it, and what a word decodes to is the unknown row or fits its own. -/
theorem decoderFollowsOpcodeTable : Obligations.DecoderFollowsOpcodeTable := by
  refine fun w => ⟨fun r hr => ⟨row_decode_of_selects hr, fun hrow => ?_⟩, decode_eq_unknown_iff.symm⟩
  rcases (decode w).unknown_or_selects with ⟨u, hu⟩ | ⟨r', hr', hrow', hsel⟩
  · rw [hu] at hrow
    exact absurd hrow.symm (opcodeRow_number_ne r hr)
  · cases opcodeRow_eq_of_number hr hr' (hrow.symm.trans hrow')
    rwa [encode_decode] at hsel

/-! ### The unknown words by their fields -/

theorem toNat_fieldOp (w : Word) : (fieldOp w).toNat = w.toNat / 4096 := by
  have hw : w.toNat < 65536 := w.isLt
  simp only [fieldOp, BitVec.extractLsb'_toNat, Nat.shiftRight_eq_div_pow]
  omega

theorem toNat_fieldN (w : Word) : (fieldN w).toNat = w.toNat % 16 := by
  simp [fieldN]

theorem toNat_fieldKK (w : Word) : (fieldKK w).toNat = w.toNat % 256 := by
  simp [fieldKK]

theorem decodeOp0_eq_unknown_iff : decodeOp0 w = .unknown w ↔ w.toNat ≠ 0x00E0 ∧ w.toNat ≠ 0x00EE := by
  unfold decodeOp0
  split <;> simp_all

theorem decodeOp5_eq_unknown_iff : decodeOp5 w = .unknown w ↔ (fieldN w).toNat ≠ 0 := by
  unfold decodeOp5
  split <;> simp_all

theorem decodeOp8_eq_unknown_iff :
    decodeOp8 w = .unknown w ↔ (fieldN w).toNat ∈ [0x8, 0x9, 0xA, 0xB, 0xC, 0xD, 0xF] := by
  have hlt : (fieldN w).toNat < 16 := (fieldN w).isLt
  unfold decodeOp8
  split
  case h_10 =>
    simp only [imp_false] at *
    simp
    omega
  all_goals simp [*]

theorem decodeOp9_eq_unknown_iff : decodeOp9 w = .unknown w ↔ (fieldN w).toNat ≠ 0 := by
  unfold decodeOp9
  split <;> simp_all

theorem decodeOpE_eq_unknown_iff : decodeOpE w = .unknown w ↔ (fieldKK w).toNat ∉ [0x9E, 0xA1] := by
  unfold decodeOpE
  split <;> simp_all

theorem decodeOpF_eq_unknown_iff :
    decodeOpF w = .unknown w ↔ (fieldKK w).toNat ∉ [0x07, 0x0A, 0x15, 0x18, 0x1E, 0x29, 0x33, 0x55, 0x65] := by
  unfold decodeOpF
  split <;> simp_all

/-- Settles O5: the dispatch on `op`, and under it the words that each secondary dispatch leaves unknown. -/
theorem unknownWordsAreTheListedOnes : Obligations.UnknownWordsAreTheListedOnes := by
  intro w
  simp only [← toNat_fieldOp, ← toNat_fieldN, ← toNat_fieldKK]
  have hlt : (fieldOp w).toNat < 16 := (fieldOp w).isLt
  unfold decode
  split
  case h_1 h => simp [h, decodeOp0_eq_unknown_iff]
  case h_6 h => simp [h, decodeOp5_eq_unknown_iff]
  case h_9 h => simp [h, decodeOp8_eq_unknown_iff]
  case h_10 h => simp [h, decodeOp9_eq_unknown_iff]
  case h_15 h => simp [h, decodeOpE_eq_unknown_iff]
  case h_16 h => simp [h, decodeOpF_eq_unknown_iff]
  case h_17 =>
    simp only [imp_false] at *
    omega
  all_goals simp [*]

/-- Settles O1: the dispatch computes on a closed word. -/
theorem writtenWordsDecode : Obligations.WrittenWordsDecode := by
  unfold Obligations.WrittenWordsDecode
  decide

end Sys2Proof

/-! PROOFS. Every step answers a next state, but for a reset with an oversize image (30_encoding.md R63,
70_reset_and_hazards.md R173). -/

namespace Sys2Proof.Machine

variable (s : State)

/-- A cycle always answers: its gates keep the state or take a fatal error, and every instruction answers. -/
theorem cycle_next : ∃ t, cycle s = .next t := by
  rcases cycle_cases s with ⟨-, hc⟩ | ⟨-, -, hc⟩ | ⟨-, -, hc⟩
  · exact ⟨_, hc⟩
  · obtain ⟨t, ht, -⟩ := exec_effect s.advancePc (decode s.fetchWord)
    exact ⟨t, hc.trans ht⟩
  · exact ⟨_, hc⟩

/-- A reset answers a state, or refuses an image that is too long. -/
theorem State.resetWith_cases (rom : List Byte) :
    (∃ t, s.resetWith rom = .next t) ∨
    (Config.romMax < rom.length ∧ s.resetWith rom = .refused (.malformedRom rom.length)) := by
  unfold State.resetWith
  split
  · exact .inl ⟨_, rfl⟩
  · exact .inr ⟨by omega, rfl⟩

/-- Settles O14: of the six events only the reset can be refused. -/
theorem everyStepAnswersButOversizeReset : Obligations.EveryStepAnswersButOversizeReset := by
  intro s
  unfold step
  cases hev : s.nextEvent with
  | step => exact .inl (cycle_next s.popEvent)
  | reset rom => exact (s.popEvent.resetWith_cases rom).imp_right fun ⟨hlong, hrefused⟩ => ⟨rom, rfl, hlong, hrefused⟩
  | tick | setKeys | setKey | supplyRnd => exact .inl ⟨_, rfl⟩

end Sys2Proof.Machine

/-! PROOFS. The cycle, its two gates and the tick (40_cycle.md): what a step request answers in each case. -/

namespace Sys2Proof.Machine

variable {s : State}

/-- Settles O17: PC leaves an in-bounds cycle at most 0x10FE, and every pushed PC is at most 0x1000. -/
theorem stepKeepsPcAndStackBounds : Obligations.StepKeepsPcAndStackBounds :=
  fun _ _ hs h => (stepEffect_of_step h).pcBounded hs

/-! ### The tick -/

theorem decTimer_toNat (t : Byte) : (decTimer t).toNat = t.toNat - 1 := by
  unfold decTimer
  split
  · subst t; rfl
  · bv_omega

/-- Settles O9: the tick is performed before any gate, so FAULT does not matter. -/
theorem tickDecrementsBothTimers : Obligations.TickDecrementsBothTimers := by
  intro s hev
  rw [step, hev]
  exact ⟨s.popEvent.tick, rfl, decTimer_toNat s.dt, decTimer_toNat s.st, rfl⟩

/-! ### The FAULT gate -/

/-- A step request of a faulted core is taken off the schedule and nothing else happens (40_cycle.md R86). -/
theorem step_of_faulted (hev : s.nextEvent = .step) (hf : s.fault = true) : step s = .next s.popEvent := by
  rw [step, hev]
  simp [perform, cycle, hf]

/-- Settles O21: the gate stops the cycle, and of the other events only the reset writes more than timers and inputs. -/
theorem onlyResetLeavesFault : Obligations.OnlyResetLeavesFault := by
  refine fun s hf => ⟨fun hev => step_of_faulted hev hf, fun hreset => ?_⟩
  cases hev : s.nextEvent with
  | step => exact ⟨_, step_of_faulted hev hf, rfl⟩
  | reset rom => exact absurd hev (hreset rom)
  | tick | setKeys | setKey | supplyRnd =>
    rw [step, hev]
    exact ⟨_, rfl, rfl⟩

/-! ### The fetch -/

theorem State.fetchable_iff : s.fetchable = true ↔ s.pc.toNat + 1 < 4096 := by
  simp [State.fetchable]

/-- Settles O7: the two bytes at PC are the fetched word, which the cycle decodes and runs. -/
theorem stepRunsDecodedInstruction : Obligations.StepRunsDecodedInstruction := by
  intro s i hev hf hpc hi
  cases hi
  exact step_of_ready ⟨hev, hf, State.fetchable_iff.2 hpc⟩

/-- A step request whose fetch is out of bounds takes the fatal error with PC not advanced (40_cycle.md R81). -/
theorem step_of_not_fetchable (hev : s.nextEvent = .step) (hf : s.fault = false) (hg : s.fetchable = false) :
    step s = .next (s.popEvent.takeFatal (.outOfBoundsMemoryAccess s.fetchFaultAddr)) := by
  rw [step, hev]
  simp only [perform, cycle, State.popEvent_fault, hf, State.fetchable_popEvent, hg]
  rfl

theorem State.fetchFaultAddr_eq_max (hpc : 4096 ≤ s.pc.toNat + 1) : s.fetchFaultAddr = max s.pc.toNat 4096 := by
  rw [State.fetchFaultAddr, memSize_eq]
  split <;> omega

/-- Settles O8: the first byte of the fetch beyond memory is PC itself, or 4096 for PC = 0xFFF. -/
theorem fetchBeyondMemoryTakesFault : Obligations.FetchBeyondMemoryTakesFault := by
  intro s hev hf hpc
  have hg : s.fetchable = false := by
    rw [Bool.eq_false_iff, ne_eq, State.fetchable_iff]
    omega
  rw [step_of_not_fetchable hev hf hg, State.fetchFaultAddr_eq_max hpc]
  rfl

/-! ### The unknown word -/

theorem decode_of_selects_eq_false {w : Word} (h : ∀ r ∈ opcodeRows, r.selects w = false) : decode w = .unknown w :=
  decode_eq_unknown_iff.2 fun r hr => beq_eq_false_iff_ne.1 (h r hr)

theorem exec_unknown (w : Word) (s : State) : exec (.unknown w) s = .next (s.report (.unknownOpcode s.pc0 w)) := rfl

/-- Settles O60: a word that fits no row decodes to `unknown`, whose meaning is the report of its address and itself. -/
theorem unknownWordIsReportedNoOperation : Obligations.UnknownWordIsReportedNoOperation := by
  refine ⟨exec_unknown, fun s hr hw => ?_⟩
  rw [step_of_ready hr, decode_of_selects_eq_false hw, exec_unknown, State.pc0_advancePc]
  rfl

end Sys2Proof.Machine

/-! PROOFS. Control transfer (41_control_flow.md): call and return over the stack, skips and jumps. -/

namespace Sys2Proof.Machine

variable (s : State)

/-! ### Call and return -/

theorem exec_call (nnn : Addr12) : exec (.call nnn) s = s.callTo (immTarget nnn) := rfl

theorem exec_ret : exec .ret s = s.popPc := rfl

/-- Settles O32: the push writes the first invalid entry; a full stack takes the fatal error of the instruction at PC - 2. -/
theorem callPushesOrOverflows : Obligations.CallPushesOrOverflows := by
  refine fun nnn s => ⟨fun hroom => ?_, s.callTo_of_full (immTarget nnn)⟩
  refine ⟨_, s.callTo_of_lt _ hroom, rfl, immTarget_toNat nnn, fun k => ?_, rfl⟩
  simp only [Fin.getElem_fin, Vector.getElem_set, eq_comm]

/-- Settles O33: the entry popped is the last valid one; an empty stack takes the fatal error of the instruction at PC - 2. -/
theorem returnPopsOrUnderflows : Obligations.ReturnPopsOrUnderflows := by
  refine fun s => ⟨fun hvalid => ?_, s.popPc_of_empty⟩
  refine ⟨_, s.popPc_of_pos hvalid, Nat.sub_add_cancel hvalid, fun k hk => ?_, rfl⟩
  simp only [Fin.getElem_fin, ← hk, Nat.add_sub_cancel]

/-- A pop right above `sp` valid entries takes the word that was pushed there and leaves them (41_control_flow.md R90). -/
theorem State.popPc_of_pushed {s : State} {stk : Vector Word 16} {sp : Fin 17} {p : Word} (hroom : sp.val < 16)
    (hsp : s.sp.val = sp.val + 1) (hstk : s.stk = stk.set sp.val p hroom) :
    s.popPc = .next { s with sp := sp, pc := p } := by
  rw [s.popPc_of_pos (by omega)]
  simp only [hsp, hstk, Nat.add_sub_cancel, Vector.getElem_set_self]

/-- Settles O34: the call pushes the advanced PC, and the advance before the return leaves the stack for it to pop. -/
theorem callThenReturnComesBack : Obligations.CallThenReturnComesBack := by
  intro s t nnn hs hcall hroom hstep ht hret
  rw [step_of_ready hs, hcall, exec_call, s.popEvent.advancePc.callTo_of_lt _ hroom] at hstep
  cases hstep
  rw [step_of_ready ht, hret, exec_ret, State.popPc_of_pushed hroom rfl rfl]
  obtain ⟨-, hfault, -⟩ := ht
  exact ⟨_, rfl, rfl, rfl, rfl, rfl, hfault⟩

/-! ### Skips -/

/-- A conditional skip writes PC only. -/
theorem State.skipIf_eq (c : Bool) : s.skipIf c = { s with pc := (s.skipIf c).pc } := by
  cases c <;> rfl

theorem State.toNat_skipIf_pc (c : Bool) :
    (s.skipIf c).pc.toNat = if c then (s.pc.toNat + 2) % 65536 else s.pc.toNat := by
  cases c <;> rfl

/-- A skip on equality, as the `SE` instructions do it. -/
theorem State.toNat_skipIf_beq_pc (a b : Byte) :
    (s.skipIf (a == b)).pc.toNat = if a = b then (s.pc.toNat + 2) % 65536 else s.pc.toNat := by
  simp only [State.toNat_skipIf_pc, beq_iff_eq]

/-- A skip on inequality, as the `SNE` instructions do it. -/
theorem State.toNat_skipIf_bne_pc (a b : Byte) :
    (s.skipIf (a != b)).pc.toNat = if a = b then s.pc.toNat else (s.pc.toNat + 2) % 65536 := by
  simp only [State.toNat_skipIf_pc, bne_iff_ne, ne_eq, ite_not]

/-- Settles O35: both are conditional skips on V[x] against kk. -/
theorem skipOnImmediate : Obligations.SkipOnImmediate := fun x kk s =>
  ⟨decodeEncodeRoundTrip (.seImm x kk) rfl, decodeEncodeRoundTrip (.sneImm x kk) rfl,
    ⟨_, rfl, s.skipIf_eq _, s.toNat_skipIf_beq_pc (s.getV x) kk⟩,
    ⟨_, rfl, s.skipIf_eq _, s.toNat_skipIf_bne_pc (s.getV x) kk⟩⟩

/-- Settles O36: both are conditional skips on V[x] against V[y]. -/
theorem skipOnRegisters : Obligations.SkipOnRegisters := fun x y s =>
  ⟨decodeEncodeRoundTrip (.seReg x y) rfl, decodeEncodeRoundTrip (.sneReg x y) rfl,
    ⟨_, rfl, s.skipIf_eq _, s.toNat_skipIf_beq_pc (s.getV x) (s.getV y)⟩,
    ⟨_, rfl, s.skipIf_eq _, s.toNat_skipIf_bne_pc (s.getV x) (s.getV y)⟩⟩

/-! ### Jumps -/

/-- The zero-extended sum modulo 65536 (41_control_flow.md R97). -/
theorem indexedTarget_toNat (b : Byte) (nnn : Addr12) :
    (indexedTarget b nnn).toNat = (b.toNat + nnn.toNat) % 65536 := by
  simp only [indexedTarget, BitVec.toNat_add, BitVec.toNat_setWidth]
  omega

/-- Settles O31: each jump sets PC to its target, a zero-extended field or sum. -/
theorem jumpsLoadPc : Obligations.JumpsLoadPc := fun nnn s =>
  ⟨decodeEncodeRoundTrip (.jp nnn) rfl, decodeEncodeRoundTrip (.jpV0 nnn) rfl,
    ⟨_, rfl, immTarget_toNat nnn, rfl⟩, ⟨_, rfl, indexedTarget_toNat (s.getV 0x0) nnn, rfl⟩⟩

end Sys2Proof.Machine

/-! PROOFS. Registers (42_alu.md): loads, arithmetic, logic, shifts and the random byte. -/

namespace Sys2Proof.Machine

variable (s : State)

/-! ### One register written -/

@[simp] theorem State.getV_setV_self (x : Nibble) (b : Byte) : (s.setV x b).getV x = b := by
  rw [State.getV_setV, if_pos rfl]

theorem State.getV_setV_of_ne (x : Nibble) (b : Byte) : ∀ r, r ≠ x → (s.setV x b).getV r = s.getV r :=
  fun r hr => by rw [State.getV_setV, if_neg hr]

/-- Settles O38: both are one register write, of kk and of V[y]. -/
theorem loadsWriteOnlyVx : Obligations.LoadsWriteOnlyVx := fun x y kk s =>
  ⟨decodeEncodeRoundTrip (.ldImm x kk) rfl, decodeEncodeRoundTrip (.ldReg x y) rfl,
    ⟨_, rfl, rfl, fun r => s.getV_setV x r kk⟩, ⟨_, rfl, rfl, fun r => s.getV_setV x r (s.getV y)⟩⟩

/-- Settles O39: one register write, of the 8-bit sum. -/
theorem addImmediateWrapsWithoutFlag : Obligations.AddImmediateWrapsWithoutFlag := by
  refine fun x kk s => ⟨decodeEncodeRoundTrip (.addImm x kk) rfl, _, rfl, rfl, ?_, s.getV_setV_of_ne x _⟩
  rw [State.getV_setV_self, BitVec.toNat_add]

/-- Settles O40: each is one register write, of a bitwise combination of V[x] and V[y]. -/
theorem logicIsBitwiseWithoutFlag : Obligations.LogicIsBitwiseWithoutFlag := by
  refine fun x y s => ⟨decodeEncodeRoundTrip (.orReg x y) rfl, decodeEncodeRoundTrip (.andReg x y) rfl,
    decodeEncodeRoundTrip (.xorReg x y) rfl, ⟨_, rfl, rfl, s.getV_setV_of_ne x _, fun k _ => ?_⟩,
    ⟨_, rfl, rfl, s.getV_setV_of_ne x _, fun k _ => ?_⟩, ⟨_, rfl, rfl, s.getV_setV_of_ne x _, fun k _ => ?_⟩⟩
  · rw [State.getV_setV_self, BitVec.getLsbD_or]
  · rw [State.getV_setV_self, BitVec.getLsbD_and]
  · rw [State.getV_setV_self, BitVec.getLsbD_xor]

/-! ### A result and a flag -/

theorem toNat_flagByte (c : Bool) : (flagByte c).toNat = if c then 1 else 0 := by
  cases c <;> rfl

theorem toNat_flagByte_carryFlag (a b : Byte) :
    (flagByte (carryFlag a b)).toNat = if a.toNat + b.toNat > 255 then 1 else 0 := by
  simp only [toNat_flagByte, carryFlag, decide_eq_true_eq]

theorem toNat_flagByte_greaterFlag (a b : Byte) :
    (flagByte (greaterFlag a b)).toNat = if a.toNat > b.toNat then 1 else 0 := by
  simp only [toNat_flagByte, greaterFlag, decide_eq_true_eq]

/-- Bit 0 is the remainder modulo 2. -/
theorem toNat_flagByte_lowBitFlag (a : Byte) : (flagByte (lowBitFlag a)).toNat = a.toNat % 2 := by
  simp only [toNat_flagByte, lowBitFlag, BitVec.getLsbD, Nat.testBit_zero, decide_eq_true_eq]
  split <;> omega

/-- Bit 7, the highest, is the quotient by 128. -/
theorem toNat_flagByte_highBitFlag (a : Byte) : (flagByte (highBitFlag a)).toNat = a.toNat / 128 := by
  have ha : a.toNat < 256 := a.isLt
  simp only [toNat_flagByte, highBitFlag, BitVec.getLsbD, Nat.testBit_eq_decide_div_mod_eq, decide_eq_true_eq]
  split <;> omega

theorem toNat_sub_byte (a b : Byte) : (a - b).toNat = (a.toNat + 256 - b.toNat) % 256 := by
  bv_omega

theorem toNat_shiftLeft_one (a : Byte) : (a <<< 1).toNat = a.toNat * 2 % 256 := by
  rw [BitVec.toNat_shiftLeft, Nat.shiftLeft_eq]

theorem toNat_ushiftRight_one (a : Byte) : (a >>> 1).toNat = a.toNat / 2 := by
  rw [BitVec.toNat_ushiftRight, Nat.shiftRight_eq_div_pow]

/-- What a flag-producing instruction leaves, the flag winning for x = F (42_alu.md R100): VF the flag `f`, V[x] the result `n`
for x other than F, and everything else as it was. -/
theorem State.setResultFlag_spec (x : Nibble) {r : Byte} {c : Bool} {f n : Nat} (hf : (flagByte c).toNat = f)
    (hr : r.toNat = n) :
    s.setResultFlag x r c = { s with v := (s.setResultFlag x r c).v } ∧
    ((s.setResultFlag x r c).getV 0xF).toNat = f ∧
    (x ≠ 0xF → ((s.setResultFlag x r c).getV x).toNat = n) ∧
    ∀ y, y ≠ x → y ≠ 0xF → (s.setResultFlag x r c).getV y = s.getV y := by
  refine ⟨rfl, ?_, fun hx => ?_, fun y hyx hy => ?_⟩
  · rw [State.getV_setResultFlag, if_pos (show (0xF : Nibble) = vf from rfl), hf]
  · rw [State.getV_setResultFlag, if_neg (show x ≠ vf from hx), if_pos rfl, hr]
  · rw [State.getV_setResultFlag, if_neg (show y ≠ vf from hy), if_neg hyx]

/-- Settles O41: the result is the 8-bit sum, the flag its carry. -/
theorem addSetsCarry : Obligations.AddSetsCarry := fun x y s =>
  ⟨_, rfl, s.setResultFlag_spec x (toNat_flagByte_carryFlag (s.getV x) (s.getV y)) (BitVec.toNat_add _ _)⟩

/-- Settles O42: the result is the 8-bit difference, the flag whether the minuend is greater; `SUBN` swaps the operands. -/
theorem subtractSetsStrictlyGreater : Obligations.SubtractSetsStrictlyGreater := fun x y s =>
  ⟨⟨_, rfl, s.setResultFlag_spec x (toNat_flagByte_greaterFlag (s.getV x) (s.getV y)) (toNat_sub_byte _ _)⟩,
    ⟨_, rfl, s.setResultFlag_spec x (toNat_flagByte_greaterFlag (s.getV y) (s.getV x)) (toNat_sub_byte _ _)⟩⟩

/-- Settles O43: a shift right halves V[x] and flags bit 0, a shift left doubles it and flags bit 7. -/
theorem shiftsMoveOutOneBit : Obligations.ShiftsMoveOutOneBit := fun x _ s =>
  ⟨⟨_, rfl, s.setResultFlag_spec x (toNat_flagByte_lowBitFlag (s.getV x)) (toNat_ushiftRight_one _)⟩,
    ⟨_, rfl, s.setResultFlag_spec x (toNat_flagByte_highBitFlag (s.getV x)) (toNat_shiftLeft_one _)⟩⟩

/-! ### The random byte -/

variable {s}

theorem State.rndByte_of_some {b : Byte} (h : s.rnd = some b) : s.rndByte = b := by
  rw [State.rndByte, h, Option.getD_some]

theorem State.rndByte_of_none (h : s.rnd = none) : s.rndByte = Config.freeRnd s.draws := by
  rw [State.rndByte, h, Option.getD_none]

/-- `Cxkk` writes one register, after the driver's two random fields. -/
theorem State.setV_consumeRnd_eq (s : State) (x : Nibble) (b : Byte) : s.consumeRnd.setV x b =
    { s with v := (s.consumeRnd.setV x b).v, rnd := (s.consumeRnd.setV x b).rnd,
             draws := (s.consumeRnd.setV x b).draws } := by
  unfold State.consumeRnd
  split <;> rfl

theorem exec_rnd (x : Nibble) (kk : Byte) (s : State) :
    exec (.rnd x kk) s = .next (s.consumeRnd.setV x (s.rndByte &&& kk)) := rfl

/-- Settles O44: one register write, of the byte of this cycle AND kk, whether the driver supplied that byte or it is free. -/
theorem randomByteIsMasked : Obligations.RandomByteIsMasked := by
  refine fun x kk s => ⟨_, exec_rnd x kk s, fun k _ hkk => ?_, fun b hb => ⟨fun k _ => ?_, ?_⟩, fun hnone => ⟨?_, ?_⟩,
    s.consumeRnd_rnd, fun r hr => ?_, s.setV_consumeRnd_eq x _⟩
  · rw [State.getV_setV_self, BitVec.getLsbD_and, hkk, Bool.and_false]
  · rw [State.getV_setV_self, BitVec.getLsbD_and, State.rndByte_of_some hb]
  · simp [hb]
  · rw [State.getV_setV_self, State.rndByte_of_none hnone]
  · simp [hnone]
  · rw [State.getV_setV_of_ne _ x _ r hr, State.getV_consumeRnd]

end Sys2Proof.Machine

/-! PROOFS. Address register and memory (43_address_memory.md): I, the digits, and the registers stored and loaded. -/

namespace Sys2Proof.Machine

variable (s : State)

/-! ### The address register -/

/-- Reading a register after the write of VF. -/
theorem State.getV_setFlag (y : Nibble) (c : Bool) : (s.setFlag c).getV y = if y = vf then flagByte c else s.getV y :=
  s.getV_setV vf y _

theorem exec_addI (x : Nibble) : exec (.addI x) s =
    .next ((s.setI (s.ireg + (s.getV x).setWidth 12)).setFlag (addressFlag s.ireg (s.getV x))) := rfl

theorem toNat_add_setWidth_byte (a : Addr12) (b : Byte) : (a + b.setWidth 12).toNat = (a.toNat + b.toNat) % 4096 := by
  rw [BitVec.toNat_add, BitVec.toNat_setWidth_of_le (by decide)]

theorem toNat_flagByte_addressFlag (a : Addr12) (b : Byte) :
    (flagByte (addressFlag a b)).toNat = if a.toNat + b.toNat > 0xFFF then 1 else 0 := by
  simp only [toNat_flagByte, addressFlag, decide_eq_true_eq]

/-- The largest glyph address, 5 * 15, is far below 4096: nothing is lost in I. -/
theorem toNat_glyphAddr (d : Nibble) : (glyphAddr d).toNat = 5 * d.toNat := by
  have hd : d.toNat < 16 := d.isLt
  rw [glyphAddr, BitVec.toNat_ofNat, Config.fontBase, Config.glyphBytes]
  omega

theorem toNat_lowNibble (b : Byte) : (lowNibble b).toNat = b.toNat % 16 := by
  rw [lowNibble, BitVec.extractLsb'_toNat, Nat.shiftRight_zero]

/-- Settles O45: the one write is that of I. -/
theorem loadAddressRegister : Obligations.LoadAddressRegister := fun nnn _ =>
  ⟨decodeEncodeRoundTrip (.ldI nnn) rfl, _, rfl, rfl, rfl⟩

/-- Settles O46: I is written with the 12-bit sum, then VF with the flag; sum and flag read I and V[x] as they were before. -/
theorem addToAddressRegisterWraps : Obligations.AddToAddressRegisterWraps := by
  refine fun x s => ⟨_, exec_addI s x, toNat_add_setWidth_byte _ _, ?_, fun r hr => ?_, rfl⟩
  · rw [State.getV_setFlag, if_pos (show (0xF : Nibble) = vf from rfl), toNat_flagByte_addressFlag]
  · rw [State.getV_setFlag, if_neg (show r ≠ vf from hr), State.getV_setI]

/-- Settles O47: the one write is that of I, with the address of the glyph of the low nibble. -/
theorem glyphAddressIsFiveTimesDigit : Obligations.GlyphAddressIsFiveTimesDigit := fun x s =>
  ⟨_, rfl, (toNat_glyphAddr _).trans (congrArg (5 * ·) (toNat_lowNibble (s.getV x))), rfl⟩

/-! ### Stores and loads -/

variable {s}

theorem State.ea_inj {j k : Nat} : s.ea j = s.ea k ↔ j = k := Nat.add_left_cancel_iff

/-! In bounds an instruction does its work; else it takes the fatal error, with the work not begun (43_address_memory.md R126). -/

theorem exec_ldBcd_of_le (x : Nibble) (h : Config.memSize ≤ s.ea 2) :
    exec (.ldBcd x) s = .next (s.takeFatal (.outOfBoundsMemoryAccess (s.ea 2))) := if_neg (Nat.not_lt.2 h)

theorem exec_stRegs_of_le (x : Nibble) (h : Config.memSize ≤ s.ea x.toNat) :
    exec (.stRegs x) s = .next (s.takeFatal (.outOfBoundsMemoryAccess (s.ea x.toNat))) := if_neg (Nat.not_lt.2 h)

theorem exec_ldRegs_of_le (x : Nibble) (h : Config.memSize ≤ s.ea x.toNat) :
    exec (.ldRegs x) s = .next (s.takeFatal (.outOfBoundsMemoryAccess (s.ea x.toNat))) := if_neg (Nat.not_lt.2 h)

theorem exec_ldRegs_of_lt (x : Nibble) (h : s.ea x.toNat < Config.memSize) :
    exec (.ldRegs x) s = .next (s.setVs 0 (s.mem.readBytes (s.ea 0) (x.toNat + 1))) := if_pos h

theorem Memory.getElem_readBytes (m : Memory) (base n k : Nat) (hk : k < (m.readBytes base n).length) :
    (m.readBytes base n)[k] = m.read (base + k) := by
  simp [Memory.readBytes]

/-- A register after `Fx65`: the byte at EA(k) for every k up to x (43_address_memory.md R125). -/
theorem State.getV_setVs_readBytes (s : State) (x k : Nibble) :
    (s.setVs 0 (s.mem.readBytes (s.ea 0) (x.toNat + 1))).getV k =
      if k.toNat ≤ x.toNat then s.readMem (s.ea k.toNat) else s.getV k := by
  have hx : x.toNat < 16 := x.isLt
  have hlen := s.mem.length_readBytes (s.ea 0) (x.toNat + 1)
  rw [State.getV_setVs _ _ _ (by omega)]
  by_cases hk : k.toNat ≤ x.toNat
  · rw [dif_pos (by omega), if_pos hk, Memory.getElem_readBytes]
    rfl
  · rw [dif_neg (by omega), if_neg hk]

/-- Settles O48: each address is read back through the one law of a read after the digits' store. -/
theorem storeBcdDigits : Obligations.StoreBcdDigits := by
  refine fun x s hm => ⟨fun h2 => ⟨_, exec_ldBcd_of_lt x h2, ?_, ?_, ?_, fun a ha => ?_, rfl⟩, exec_ldBcd_of_le x⟩
  · rw [State.readMem_storeBytes_bcdDigits hm, if_pos rfl]
  · simp [State.readMem_storeBytes_bcdDigits hm, State.ea_inj]
  · simp [State.readMem_storeBytes_bcdDigits hm, State.ea_inj]
  · exact s.mem.read_writeBytes_other (s.ea 0) (bcdDigits (s.getV x)) ha

/-- Settles O49: the addresses EA(0) to EA(x) are the range of the store, and EA(k) is its place of V[k]. -/
theorem storeRegistersUpToX : Obligations.StoreRegistersUpToX := by
  refine fun x s hm => ⟨fun hx => ⟨_, exec_stRegs_of_lt x hx, fun k hk => ?_, fun a ha => ?_, rfl⟩,
    exec_stRegs_of_le x⟩
  · have hrange : s.ea 0 ≤ s.ea k.toNat ∧ s.ea k.toNat ≤ s.ea x.toNat := by simp only [State.ea]; omega
    have hindex : s.ea k.toNat - s.ea 0 = k.toNat := Nat.add_sub_cancel_left _ _
    rw [State.readMem_storeBytes_getVs hm, if_pos hrange, hindex, BitVec.ofNat_toNat, BitVec.setWidth_eq]
  · rw [State.readMem_storeBytes_getVs hm, if_neg (by omega)]

/-- Settles O50: the registers loaded are the first x + 1, each from its own address. -/
theorem loadRegistersUpToX : Obligations.LoadRegistersUpToX := fun x s =>
  ⟨fun hx => ⟨_, exec_ldRegs_of_lt x hx, s.getV_setVs_readBytes x, s.setVs_eq 0 _⟩, exec_ldRegs_of_le x⟩

end Sys2Proof.Machine

/-! PROOFS. Display (44_display.md): the framebuffer's writers, the cells a sprite lights, drawing, and the read-out. -/

namespace Sys2Proof.Machine

variable {i : Instr} {s t : State}

/-! ### The writers of the framebuffer -/

theorem Effect.fb_eq_or (he : Effect i s t) : t.fb = s.fb ∨ i = .cls ∨ ∃ x y n, i = .drw x y n := by
  cases he with
  | display _ _ hi => exact .inr hi
  | _ => exact .inl rfl

/-- Settles O23: of the events only reset and a cycle that executes may write the framebuffer, and of the effects only that of
a display instruction. -/
theorem framebufferChangesOnlyByDisplay : Obligations.FramebufferChangesOnlyByDisplay := by
  intro s t h hne
  cases stepEffect_of_step h with
  | execute hr he => exact .inr ⟨hr, he.fb_eq_or.resolve_left hne⟩
  | reset rom hev => exact .inl ⟨rom, hev⟩
  | _ => exact absurd rfl hne

/-! ### Pixels -/

@[simp] theorem readPixel_clearFramebuffer (tx : Fin 64) (ty : Fin 32) : readPixel clearFramebuffer tx ty = false := by
  simp [readPixel, clearFramebuffer]

theorem readPixel_togglePixel (fb : Framebuffer) (tx tx' : Fin 64) (ty ty' : Fin 32) :
    readPixel (togglePixel fb tx ty) tx' ty' =
      if (tx', ty') = (tx, ty) then !readPixel fb tx' ty' else readPixel fb tx' ty' := by
  by_cases hy : ty' = ty
  · subst hy
    by_cases hx : tx' = tx
    · simp [readPixel, togglePixel, hx]
    · simp [readPixel, togglePixel, hx, Fin.val_inj]
  · have hy' : ty.val ≠ ty'.val := fun h => hy (Fin.ext h.symm)
    simp [readPixel, togglePixel, Vector.getElem_set_ne, hy, hy']

theorem framebuffer_ext {fb fb' : Framebuffer} (h : ∀ tx ty, readPixel fb tx ty = readPixel fb' tx ty) : fb = fb' :=
  Vector.ext fun ty hty => BitVec.eq_of_getLsbD_eq fun tx htx => h ⟨tx, htx⟩ ⟨ty, hty⟩

/-- Settles O52: the one write is that of the framebuffer, with every cell 0. -/
theorem clearScreenClearsEveryCell : Obligations.ClearScreenClearsEveryCell :=
  ⟨decodeEncodeRoundTrip .cls rfl, fun _ => ⟨_, rfl, readPixel_clearFramebuffer, rfl⟩⟩

/-- Settles O55: index ty * 64 + tx divides into row ty and column tx. -/
theorem frameIsRowMajor : Obligations.FrameIsRowMajor := by
  refine fun s => ⟨by simp [State.frame], fun tx ty => ?_⟩
  have hk : ty.val * 64 + tx.val < 2048 := by omega
  have hcol : (ty.val * 64 + tx.val) % 64 = tx.val := by omega
  have hrow : (ty.val * 64 + tx.val) / 64 = ty.val := by omega
  simp [State.frame, State.getPixel, hk, hcol, hrow]

/-! ### The cells a sprite lights

A draw is a walk over the cells on which a 1 bit of the sprite lands. It meets no cell twice (44_display.md R133), so every cell
is read and toggled as it was before the draw. -/

/-- A cell by its column and row. -/
abbrev Cell := Fin 64 × Fin 32

/-- The cells on which the 1 bits of sprite row `i` land, leftmost first. -/
def litRowCells (vx vy : Byte) (i : Nat) (row : Byte) : List Cell :=
  ((List.range 8).filter fun j => row.getLsbD (7 - j)).map fun j => (spriteColumn vx j, spriteLine vy i)

/-- The cells on which the 1 bits of the sprite rows from row `i` on land, top first. -/
def litCells (vx vy : Byte) : Nat → List Byte → List Cell
  | _, [] => []
  | i, row :: rows => litRowCells vx vy i row ++ litCells vx vy (i + 1) rows

/-- A 1 bit lands on a cell: the cell is toggled, and collides if it was set (44_display.md R132). -/
def hitCell (acc : Framebuffer × Bool) (c : Cell) : Framebuffer × Bool :=
  (togglePixel acc.1 c.1 c.2, acc.2 || readPixel acc.1 c.1 c.2)

theorem drawRow_eq_foldl (vx vy : Byte) (i : Nat) (row : Byte) (acc : Framebuffer × Bool) :
    drawRow vx vy i row acc = (litRowCells vx vy i row).foldl hitCell acc := by
  rw [litRowCells, List.foldl_map, List.foldl_filter]
  rfl

theorem drawRows_eq_foldl (vx vy : Byte) (i : Nat) (rows : List Byte) (acc : Framebuffer × Bool) :
    drawRows vx vy i rows acc = (litCells vx vy i rows).foldl hitCell acc := by
  induction rows generalizing i acc with
  | nil => rfl
  | cons row rows ih => rw [drawRows, litCells, List.foldl_append, ih, drawRow_eq_foldl]

theorem mem_litRowCells {vx vy row : Byte} {i : Nat} {c : Cell} : c ∈ litRowCells vx vy i row ↔
    ∃ j, j < 8 ∧ row.getLsbD (7 - j) = true ∧ c = (spriteColumn vx j, spriteLine vy i) := by
  simp only [litRowCells, List.mem_map, List.mem_filter, List.mem_range, and_assoc, eq_comm (a := c)]

theorem mem_litCells {vx vy : Byte} {i : Nat} {rows : List Byte} {c : Cell} : c ∈ litCells vx vy i rows ↔
    ∃ k, ∃ hk : k < rows.length, c ∈ litRowCells vx vy (i + k) rows[k] := by
  induction rows generalizing i with
  | nil => simp [litCells]
  | cons row rows ih =>
    rw [litCells, List.mem_append, ih]
    constructor
    · rintro (h | ⟨k, hk, h⟩)
      · exact ⟨0, Nat.zero_lt_succ _, h⟩
      · exact ⟨k + 1, Nat.succ_lt_succ hk, Nat.succ_add_eq_add_succ i k ▸ h⟩
    · rintro ⟨_ | k, hk, h⟩
      · exact .inl h
      · exact .inr ⟨k, Nat.lt_of_succ_lt_succ hk, (Nat.succ_add_eq_add_succ i k).symm ▸ h⟩

/-- The eight columns of a sprite are distinct, the screen being 64 wide. -/
theorem spriteColumn_inj {vx : Byte} {j j' : Nat} (hj : j < 8) (hj' : j' < 8)
    (h : spriteColumn vx j = spriteColumn vx j') : j = j' := by
  have := Fin.val_eq_of_eq h
  simp only [spriteColumn, Config.fbWidth] at this
  omega

/-- Rows less than 32 apart land on distinct lines, the screen being 32 high. -/
theorem spriteLine_ne {vy : Byte} {i k : Nat} (hk : k + 1 < 32) : spriteLine vy i ≠ spriteLine vy (i + 1 + k) := by
  intro h
  have := Fin.val_eq_of_eq h
  simp only [spriteLine, Config.fbHeight] at this
  omega

theorem nodup_litRowCells (vx vy : Byte) (i : Nat) (row : Byte) : (litRowCells vx vy i row).Nodup := by
  refine List.Nodup.map_on (fun j hj j' hj' h => ?_) (List.nodup_range.filter _)
  simp only [List.mem_filter, List.mem_range] at hj hj'
  exact spriteColumn_inj hj.1 hj'.1 (Prod.mk.inj h).1

/-- Within one draw no cell is touched twice (44_display.md R133). -/
theorem nodup_litCells (vx vy : Byte) (i : Nat) {rows : List Byte} (hlen : rows.length ≤ 32) :
    (litCells vx vy i rows).Nodup := by
  induction rows generalizing i with
  | nil => exact List.nodup_nil
  | cons row rows ih =>
    rw [List.length_cons] at hlen
    refine (nodup_litRowCells vx vy i row).append (ih (i + 1) (by omega)) fun c hc hc' => ?_
    obtain ⟨_, _, _, rfl⟩ := mem_litRowCells.1 hc
    obtain ⟨k, hk, hck⟩ := mem_litCells.1 hc'
    obtain ⟨_, _, _, heq⟩ := mem_litRowCells.1 hck
    exact spriteLine_ne (by omega) (Prod.mk.inj heq).2

/-! ### Drawing -/

theorem readPixel_foldl_hitCell {cells : List Cell} (hnodup : cells.Nodup) (acc : Framebuffer × Bool) (tx : Fin 64)
    (ty : Fin 32) : readPixel (cells.foldl hitCell acc).1 tx ty =
      if (tx, ty) ∈ cells then !readPixel acc.1 tx ty else readPixel acc.1 tx ty := by
  induction cells generalizing acc with
  | nil => simp
  | cons c cells ih =>
    obtain ⟨hc, hcells⟩ := List.nodup_cons.1 hnodup
    rw [List.foldl_cons, ih hcells, hitCell, readPixel_togglePixel]
    by_cases heq : (tx, ty) = c
    · subst heq
      simp [hc]
    · simp [heq]

/-- A walk over distinct cells collides on the cells that were set before the walk. -/
theorem foldl_hitCell_collided_iff {cells : List Cell} (hnodup : cells.Nodup) (acc : Framebuffer × Bool) :
    (cells.foldl hitCell acc).2 = true ↔ acc.2 = true ∨ ∃ c ∈ cells, readPixel acc.1 c.1 c.2 = true := by
  induction cells generalizing acc with
  | nil => simp
  | cons c cells ih =>
    obtain ⟨hc, hcells⟩ := List.nodup_cons.1 hnodup
    have hkept : (∃ d ∈ cells, readPixel (hitCell acc c).1 d.1 d.2 = true) ↔
        ∃ d ∈ cells, readPixel acc.1 d.1 d.2 = true :=
      exists_congr fun d => and_congr_right fun hd => by
        have hdc : d ≠ c := fun h => hc (h ▸ hd)
        rw [hitCell, readPixel_togglePixel, if_neg hdc]
    rw [List.foldl_cons, ih hcells, hkept, hitCell, Bool.or_eq_true, or_assoc, List.exists_mem_cons_iff]

section Draw

variable {sprite : List Byte} (hlen : sprite.length ≤ 32) (vx vy : Byte) (fb : Framebuffer)

include hlen

theorem readPixel_draw (tx : Fin 64) (ty : Fin 32) : readPixel (draw vx vy sprite fb).1 tx ty =
    if (tx, ty) ∈ litCells vx vy 0 sprite then !readPixel fb tx ty else readPixel fb tx ty := by
  rw [draw, drawRows_eq_foldl, readPixel_foldl_hitCell (nodup_litCells vx vy 0 hlen)]

theorem draw_collided_iff : (draw vx vy sprite fb).2 = true ↔
    ∃ tx ty, (tx, ty) ∈ litCells vx vy 0 sprite ∧ readPixel fb tx ty = true := by
  rw [draw, drawRows_eq_foldl, foldl_hitCell_collided_iff (nodup_litCells vx vy 0 hlen)]
  simp

/-- A draw collides when it clears a cell: a lit cell that was set. -/
theorem draw_collided_iff_clears : (draw vx vy sprite fb).2 = true ↔
    ∃ tx ty, readPixel fb tx ty = true ∧ readPixel (draw vx vy sprite fb).1 tx ty = false := by
  rw [draw_collided_iff hlen]
  refine exists₂_congr fun tx ty => ?_
  rw [readPixel_draw hlen]
  by_cases hcell : (tx, ty) ∈ litCells vx vy 0 sprite <;> simp [hcell]

/-- The second draw walks over the same cells, so it toggles back what the first toggled. -/
theorem draw_draw : (draw vx vy sprite (draw vx vy sprite fb).1).1 = fb :=
  framebuffer_ext fun tx ty => by
    rw [readPixel_draw hlen, readPixel_draw hlen]
    by_cases hcell : (tx, ty) ∈ litCells vx vy 0 sprite <;> simp [hcell]

end Draw

/-- Settles O54: each draw collides on the cells it clears, and the cells the second clears are those the first set. -/
theorem drawingTwiceRestores : Obligations.DrawingTwiceRestores := by
  intro vx vy sprite fb h15 once twice
  have hlen : sprite.length ≤ 32 := by omega
  have htwice : twice.1 = fb := draw_draw hlen vx vy fb
  refine ⟨htwice, draw_collided_iff_clears hlen vx vy fb, (draw_collided_iff_clears hlen vx vy once.1).trans ?_⟩
  simp only [show (draw vx vy sprite once.1).1 = fb from htwice, and_comm]

/-! ### `Dxyn` -/

/-- A draw whose sprite lies in memory, n = 0 included: no byte is read then. -/
theorem exec_drw_of_le (x y n : Nibble) (h : s.ireg.toNat + n.toNat ≤ Config.memSize) :
    exec (.drw x y n) s =
      .next (s.drawSprite (s.getV x) (s.getV y) (s.mem.readBytes (s.ea 0) n.toNat)) := by
  by_cases hn : n = 0
  · subst hn
    rfl
  · have hpos : n.toNat ≠ 0 := fun h0 => hn (BitVec.eq_of_toNat_eq h0)
    have hlast : s.ea (n.toNat - 1) < Config.memSize := by
      rw [State.ea]
      omega
    exact (if_neg hn).trans (if_pos hlast)

/-- The lit cells of a sprite read from memory (44_display.md R131, R132). -/
theorem mem_litCells_readBytes {vx vy : Byte} {n : Nat} {tx : Fin 64} {ty : Fin 32} :
    (tx, ty) ∈ litCells vx vy 0 (s.mem.readBytes (s.ea 0) n) ↔
      ∃ i j, i < n ∧ j < 8 ∧ (s.readMem (s.ireg.toNat + i)).getLsbD (7 - j) = true ∧
        tx.val = (vx.toNat + j) % 64 ∧ ty.val = (vy.toNat + i) % 32 := by
  simp only [mem_litCells, mem_litRowCells, Memory.length_readBytes, Memory.getElem_readBytes, Prod.mk.injEq, Fin.ext_iff,
    exists_prop, exists_and_left, Nat.zero_add]
  rfl

theorem State.getV_drawSprite (vx vy : Byte) (sprite : List Byte) (r : Nibble) :
    (s.drawSprite vx vy sprite).getV r = if r = vf then flagByte (draw vx vy sprite s.fb).2 else s.getV r :=
  s.getV_setFlag r _

/-- Settles O53: the cells of the statement are the lit cells, which the draw toggles and whose old values are the collision. -/
theorem drawTogglesTheSpritePixels : Obligations.DrawTogglesTheSpritePixels := by
  intro x y n s hle lit
  have hlen : (s.mem.readBytes (s.ea 0) n.toNat).length ≤ 32 := by
    rw [Memory.length_readBytes]
    omega
  have hlit (tx : Fin 64) (ty : Fin 32) : (tx, ty) ∈ litCells (s.getV x) (s.getV y) 0 _ ↔ lit tx ty :=
    mem_litCells_readBytes
  have hpixel := readPixel_draw hlen (s.getV x) (s.getV y) s.fb
  have hcollided := draw_collided_iff hlen (s.getV x) (s.getV y) s.fb
  simp only [hlit] at hcollided
  refine ⟨_, exec_drw_of_le x y n hle, fun tx ty => ⟨fun h => ?_, fun h => ?_⟩, fun h => ?_, fun h => ?_, fun r hr => ?_, rfl⟩
  · exact (hpixel tx ty).trans (if_pos ((hlit tx ty).2 h))
  · exact (hpixel tx ty).trans (if_neg (mt (hlit tx ty).1 h))
  · rw [State.getV_drawSprite, if_pos (show (0xF : Nibble) = vf from rfl), hcollided.2 h]
    rfl
  · rw [State.getV_drawSprite, if_pos (show (0xF : Nibble) = vf from rfl), Bool.eq_false_iff.2 (mt hcollided.1 h)]
    rfl
  · rw [State.getV_drawSprite, if_neg (show r ≠ vf from hr)]

end Sys2Proof.Machine


/-! PROOFS. Keypad and timers (45_keypad_timers.md): the key skips, the wait for a key, and the timer registers. -/

namespace Sys2Proof.Machine

variable {s : State}

/-! ### The key skips -/

/-- The key that a register value names (45_keypad_timers.md R140, R141). -/
theorem keyDown_lowNibble (keys : Word) (b : Byte) : keyDown keys (lowNibble b) = keys.getLsbD (b.toNat % 16) := by
  rw [keyDown, toNat_lowNibble]

theorem exec_skp (x : Nibble) (s : State) :
    exec (.skp x) s = .next (s.skipIf (s.keys.getLsbD ((s.getV x).toNat % 16))) := by
  rw [← keyDown_lowNibble]
  rfl

theorem exec_sknp (x : Nibble) (s : State) :
    exec (.sknp x) s = .next (s.skipIf (!s.keys.getLsbD ((s.getV x).toNat % 16))) := by
  rw [← keyDown_lowNibble]
  rfl

/-- A skip on the negated condition, as `SKNP` does it. -/
theorem State.toNat_skipIf_not_pc (s : State) (c : Bool) :
    (s.skipIf (!c)).pc.toNat = if c then s.pc.toNat else (s.pc.toNat + 2) % 65536 := by
  cases c <;> rfl

/-- Settles O56: both are conditional skips on the one key of the low nibble, the second on its negation. -/
theorem skipOnKeyState : Obligations.SkipOnKeyState := fun x s =>
  ⟨⟨_, exec_skp x s, s.skipIf_eq _, s.toNat_skipIf_pc _⟩, ⟨_, exec_sknp x s, s.skipIf_eq _, s.toNat_skipIf_not_pc _⟩⟩

/-! ### The wait for a key -/

/-- The search from index 0 stops at the first key that is down (45_keypad_timers.md R142). -/
theorem lowestKeyDown_eq_some {keys : Word} {k : Nibble} (hk : keys.getLsbD k.toNat = true)
    (hlow : ∀ j, j < k.toNat → keys.getLsbD j = false) : lowestKeyDown keys = some k := by
  have hfind : (List.range 16).find? (fun j => keys.getLsbD j) = some k.toNat :=
    List.find?_range_eq_some.2 ⟨hk, List.mem_range.2 k.isLt, fun j hj => by rw [hlow j hj]; rfl⟩
  rw [lowestKeyDown, hfind, Option.map_some, BitVec.ofNat_toNat, BitVec.setWidth_eq]

theorem lowestKeyDown_zero : lowestKeyDown 0 = none := by decide

theorem exec_ldVxKey_of_some {k : Nibble} (x : Nibble) (h : lowestKeyDown s.keys = some k) :
    exec (.ldVxKey x) s = .next (s.setV x (k.setWidth 8)) := by
  change execLdVxKey x s = _
  rw [execLdVxKey, h]

theorem exec_ldVxKey_of_none (x : Nibble) (h : lowestKeyDown s.keys = none) :
    exec (.ldVxKey x) s = .next (s.setPc s.pc0) := by
  change execLdVxKey x s = _
  rw [execLdVxKey, h]

/-- Settles O57: one register write, of the key at which the search stops. -/
theorem waitForKeyTakesLowestKey : Obligations.WaitForKeyTakesLowestKey := by
  refine fun x k s hk hlow => ⟨_, exec_ldVxKey_of_some x (lowestKeyDown_eq_some hk hlow), ?_, s.getV_setV_of_ne x _, rfl⟩
  rw [State.getV_setV_self, BitVec.toNat_setWidth_of_le (by decide)]

/-- Settles O58: the write of pc0 undoes the advance of PC, and the cycle writes nothing else. -/
theorem waitForKeyRepeatsUnchanged : Obligations.WaitForKeyRepeatsUnchanged := by
  rintro s ⟨hfault, hfetch, hkeys, x, hx⟩ hev
  have hnone : lowestKeyDown s.popEvent.advancePc.keys = none := (congrArg lowestKeyDown hkeys).trans lowestKeyDown_zero
  rw [step_of_ready ⟨hev, hfault, hfetch⟩, hx, exec_ldVxKey_of_none x hnone, State.pc0_advancePc]
  rfl

/-! ### The timer registers -/

/-- Settles O59: each is one write of a whole byte, of a register or of a timer. -/
theorem timerRegistersMoveWhole : Obligations.TimerRegistersMoveWhole := fun x s =>
  ⟨decodeEncodeRoundTrip (.ldVxDt x) rfl, decodeEncodeRoundTrip (.ldDtVx x) rfl, decodeEncodeRoundTrip (.ldStVx x) rfl,
    ⟨_, rfl, rfl, fun r => s.getV_setV x r s.dt⟩, ⟨_, rfl, rfl, rfl⟩, ⟨_, rfl, rfl, rfl⟩⟩

end Sys2Proof.Machine

/-! PROOFS. Fatal errors and reports (60_exceptions.md): what a fatal error writes, when one is taken, and that no step reads
what has been reported. -/

namespace Sys2Proof.Machine

variable {i : Instr} {s t : State}

/-! ### A fatal error is precise -/

/-- FAULT is written by taking a fatal error only, and that is then all an instruction does (60_exceptions.md R156, R157). -/
theorem Effect.fault_eq_or (he : Effect i s t) : t.fault = s.fault ∨ ∃ f, t = s.takeFatal f := by
  cases he with
  | fatal f => exact .inr ⟨f, rfl⟩
  | _ => exact .inl rfl

/-- Settles O19: FAULT was clear, so a set FAULT comes from the one effect that takes a fatal error. -/
theorem fatalErrorsArePrecise : Obligations.FatalErrorsArePrecise := by
  intro i s t hclear h hset
  exact (effect_of_exec h).fault_eq_or.resolve_left (by simp [hclear, hset])

/-! ### When a fatal error is taken, and its code -/

/-- The CAUSE code of the one check of an instruction (60_exceptions.md R150 to R153). -/
def checkCause : Instr → BitVec 2
  | .call _ => 2
  | .ret => 3
  | _ => 1

/-- A draw whose last sprite byte does not exist takes the fatal error before reading any (44_display.md R131). -/
theorem exec_drw_of_fatalCondition {x y n : Nibble} (h : fatalCondition (.drw x y n) s) :
    exec (.drw x y n) s = .next (s.takeFatal (.outOfBoundsMemoryAccess (s.ea (n.toNat - 1)))) := by
  obtain ⟨hpos, hbeyond⟩ := h
  have hn : n ≠ 0 := fun h0 => by simp [h0] at hpos
  have hlast : ¬ s.ea (n.toNat - 1) < Config.memSize := by
    rw [State.ea, memSize_eq]
    omega
  exact (if_neg hn).trans (if_neg hlast)

/-- An instruction whose check fails takes a fatal error of the kind of the check. -/
theorem exec_of_fatalCondition (h : fatalCondition i s) :
    ∃ f, exec i s = .next (s.takeFatal f) ∧ causeCode f = checkCause i := by
  cases i with
  | call nnn => exact ⟨_, s.callTo_of_full _ h, rfl⟩
  | ret => exact ⟨_, s.popPc_of_empty h, rfl⟩
  | drw => exact ⟨_, exec_drw_of_fatalCondition h, rfl⟩
  | ldBcd x => exact ⟨_, exec_ldBcd_of_le x h, rfl⟩
  | stRegs x => exact ⟨_, exec_stRegs_of_le x h, rfl⟩
  | ldRegs x => exact ⟨_, exec_ldRegs_of_le x h, rfl⟩
  | _ => exact h.elim

/-- An instruction whose check passes, or that has none, leaves FAULT as it was. -/
theorem fault_eq_of_not_fatalCondition (hc : ¬ fatalCondition i s) (h : exec i s = .next t) : t.fault = s.fault := by
  cases i with
  | call nnn =>
    have hroom : s.sp.val < 16 := Nat.lt_of_le_of_ne (Nat.le_of_lt_succ s.sp.isLt) hc
    cases (s.callTo_of_lt _ hroom).symm.trans h
    rfl
  | ret =>
    cases (s.popPc_of_pos (Nat.pos_of_ne_zero hc)).symm.trans h
    rfl
  | drw x y n =>
    have hfits : s.ireg.toNat + n.toNat ≤ Config.memSize := by
      have hireg : s.ireg.toNat < 4096 := s.ireg.isLt
      simp only [fatalCondition, memSize_eq] at hc ⊢
      omega
    cases (exec_drw_of_le x y n hfits).symm.trans h
    rfl
  | ldBcd x =>
    cases (exec_ldBcd_of_lt x (Nat.lt_of_not_le hc)).symm.trans h
    rfl
  | stRegs x =>
    cases (exec_stRegs_of_lt x (Nat.lt_of_not_le hc)).symm.trans h
    rfl
  | ldRegs x =>
    cases (exec_ldRegs_of_lt x (Nat.lt_of_not_le hc)).symm.trans h
    exact s.setVs_fault _ _
  | seImm | sneImm | seReg | sneReg | skp | sknp => cases h; exact s.skipIf_fault _
  | rnd => cases h; exact s.consumeRnd_fault
  | ldVxKey x =>
    cases hkey : lowestKeyDown s.keys with
    | none => cases (exec_ldVxKey_of_none x hkey).symm.trans h; rfl
    | some k => cases (exec_ldVxKey_of_some x hkey).symm.trans h; rfl
  | _ => cases h; rfl

/-- Settles O20: a failed check decides the next state and its code, a passed one keeps FAULT clear. -/
theorem fatalErrorsExactlyWhenListed : Obligations.FatalErrorsExactlyWhenListed := by
  intro i s t hclear h
  by_cases hc : fatalCondition i s
  · obtain ⟨f, hf, hcode⟩ := exec_of_fatalCondition hc
    cases hf.symm.trans h
    exact ⟨iff_of_true rfl hc, fun _ => hcode⟩
  · have hkept : t.fault ≠ true := by simp [fault_eq_of_not_fatalCondition hc h, hclear]
    exact ⟨iff_of_false hkept hc, fun hset => absurd hset hkept⟩

/-! ### Reports are never read -/

/-- The state with the reports `l` delivered before its own. -/
def State.prependReports (s : State) (l : List Report) : State := { s with reports := l ++ s.reports }

/-- An answer with `g` applied to its next state. -/
def mapNext (g : State → State) : Result → Result
  | .next t => .next (g t)
  | .fault f => .fault f
  | .refused r => .refused r

section Reports

variable (s : State) (l : List Report)

theorem State.report_prependReports (r : Report) : (s.prependReports l).report r = (s.report r).prependReports l := by
  simp [State.report, State.prependReports]

theorem State.takeFatal_prependReports (f : Fault) :
    (s.prependReports l).takeFatal f = (s.takeFatal f).prependReports l := by
  simp [State.takeFatal, State.report, State.prependReports]

theorem State.skipIf_prependReports (c : Bool) : (s.prependReports l).skipIf c = (s.skipIf c).prependReports l := by
  cases c <;> rfl

theorem State.setVs_prependReports (k : Nat) (bs : List Byte) :
    (s.prependReports l).setVs k bs = (s.setVs k bs).prependReports l := by
  induction bs generalizing s k with
  | nil => rfl
  | cons b bs ih => exact ih (s.setV (BitVec.ofNat 4 k) b) (k + 1)

theorem State.consumeRnd_prependReports : (s.prependReports l).consumeRnd = s.consumeRnd.prependReports l := by
  cases hr : s.rnd <;> simp [State.consumeRnd, State.prependReports, hr]

/-- A guarded access reads no report when its work reads none. -/
theorem State.guardAccess_prependReports {last : Nat} {go : State → State}
    (hgo : go (s.prependReports l) = (go s).prependReports l) :
    (s.prependReports l).guardAccess last go = mapNext (·.prependReports l) (s.guardAccess last go) := by
  unfold State.guardAccess
  split
  · exact congrArg Host.Outcome.next hgo
  · exact congrArg Host.Outcome.next (s.takeFatal_prependReports l _)

theorem State.callTo_prependReports (target : Word) :
    (s.prependReports l).callTo target = mapNext (·.prependReports l) (s.callTo target) := by
  by_cases hroom : s.sp.val < 16
  · rw [s.callTo_of_lt _ hroom]
    exact (s.prependReports l).callTo_of_lt _ hroom
  · have hfull : s.sp.val = 16 := by omega
    rw [s.callTo_of_full _ hfull, mapNext, ← State.takeFatal_prependReports]
    exact (s.prependReports l).callTo_of_full _ hfull

theorem State.popPc_prependReports : (s.prependReports l).popPc = mapNext (·.prependReports l) s.popPc := by
  by_cases hvalid : 0 < s.sp.val
  · rw [s.popPc_of_pos hvalid]
    exact (s.prependReports l).popPc_of_pos hvalid
  · have hempty : s.sp.val = 0 := by omega
    rw [s.popPc_of_empty hempty, mapNext, ← State.takeFatal_prependReports]
    exact (s.prependReports l).popPc_of_empty hempty

theorem exec_prependReports (i : Instr) : exec i (s.prependReports l) = mapNext (·.prependReports l) (exec i s) := by
  cases i with
  | ret => exact s.popPc_prependReports l
  | call => exact s.callTo_prependReports l _
  | seImm | sneImm | seReg | sneReg | skp | sknp => exact congrArg Host.Outcome.next (s.skipIf_prependReports l _)
  | rnd x kk =>
    exact congrArg (fun u : State => Host.Outcome.next (u.setV x (s.rndByte &&& kk))) (s.consumeRnd_prependReports l)
  | drw x y n =>
    simp only [exec, execDrw]
    split
    · rfl
    · exact s.guardAccess_prependReports l rfl
  | ldVxKey x =>
    cases hkey : lowestKeyDown s.keys with
    | none =>
      rw [exec_ldVxKey_of_none x hkey]
      exact exec_ldVxKey_of_none (s := s.prependReports l) x hkey
    | some k =>
      rw [exec_ldVxKey_of_some x hkey]
      exact exec_ldVxKey_of_some (s := s.prependReports l) x hkey
  | ldBcd | stRegs =>
    simp only [exec, execLdBcd, execStRegs]
    exact s.guardAccess_prependReports l rfl
  | ldRegs =>
    simp only [exec, execLdRegs]
    exact s.guardAccess_prependReports l (s.setVs_prependReports l _ _)
  | unknown => exact congrArg Host.Outcome.next (s.report_prependReports l _)
  | _ => rfl

theorem cycle_prependReports : cycle (s.prependReports l) = mapNext (·.prependReports l) (cycle s) := by
  unfold cycle
  -- The two gates, FAULT and the fetch bounds, are those of `s`.
  change (if s.fault then _ else if s.fetchable then _ else _) = _
  split
  · rfl
  · split
    · exact exec_prependReports s.advancePc l _
    · exact congrArg Host.Outcome.next (s.takeFatal_prependReports l _)

theorem State.resetWith_prependReports (rom : List Byte) :
    (s.prependReports l).resetWith rom = mapNext (·.prependReports l) (s.resetWith rom) := by
  unfold State.resetWith
  split <;> rfl

theorem perform_prependReports (e : DriverEvent) :
    perform e (s.prependReports l) = mapNext (·.prependReports l) (perform e s) := by
  cases e with
  | step => exact cycle_prependReports s l
  | reset rom => exact s.resetWith_prependReports l rom
  | tick | setKeys | setKey | supplyRnd => rfl

end Reports

/-- Settles O28: the schedule does not hold the reports, and performing any event carries the earlier ones along. -/
theorem reportsAreNeverRead : Obligations.ReportsAreNeverRead :=
  fun s l => perform_prependReports s.popEvent l s.nextEvent

end Sys2Proof.Machine

/-! PROOFS. Reset and hazards (70_reset_and_hazards.md): the reset with a ROM image, the refusal of an oversize one, and the
program that has stopped. -/

namespace Sys2Proof.Machine

variable {s : State} {rom : List Byte}

/-! ### The reset event -/

theorem step_of_reset (hev : s.nextEvent = .reset rom) : step s = s.popEvent.resetWith rom := by
  rw [step, hev]
  rfl

theorem State.resetWith_of_le (h : rom.length ≤ Config.romMax) : s.resetWith rom = .next (s.resetCore rom) := if_pos h

theorem State.resetWith_of_lt (h : Config.romMax < rom.length) :
    s.resetWith rom = .refused (.malformedRom rom.length) := if_neg (Nat.not_le.2 h)

/-- Settles O13: the length is checked before anything is reset. -/
theorem oversizeRomIsRefused : Obligations.OversizeRomIsRefused :=
  fun _ _ hev hlong => (step_of_reset hev).trans (State.resetWith_of_lt hlong)

/-! ### The state the reset constructs -/

theorem getV_resetCore (x : Nibble) : (s.resetCore rom).getV x = 0 := by
  simp [State.getV]

theorem getPixel_resetCore (tx : Fin 64) (ty : Fin 32) : (s.resetCore rom).getPixel tx ty = false := getPixel_reset tx ty

theorem readMem_resetCore_image {k : Nat} (hk : k < rom.length) :
    (s.resetCore rom).readMem (0x200 + k) = rom.getD k 0 :=
  (Memory.read_writeBytes_same [] .nil _ rom k hk).trans (List.getD_eq_getElem rom 0 hk).symm

/-- Outside the image memory reads as after a reset with the empty one. -/
theorem readMem_resetCore_other {a : Nat} (ha : a < 0x200 ∨ 0x200 + rom.length ≤ a) :
    (s.resetCore rom).readMem a = resetByte a :=
  Memory.read_writeBytes_other [] _ rom ha

theorem resetByte_of_lt {a : Nat} (ha : a < 80) : resetByte a = font.getD a 0 := if_pos ha

theorem resetByte_of_le {a : Nat} (ha : 80 ≤ a) : resetByte a = 0 := if_neg (Nat.not_lt.2 ha)

/-- Settles O11: the font ends below the image, so an address reads as the image, as the font, or as zero. -/
theorem resetLoadsRomImage : Obligations.ResetLoadsRomImage := by
  intro s rom hev hlen
  refine ⟨s.popEvent.resetCore rom, (step_of_reset hev).trans (State.resetWith_of_le hlen), rfl, getV_resetCore,
    rfl, rfl, rfl, rfl, rfl, rfl, getPixel_resetCore, fun _ => readMem_resetCore_image, ?font, ?zero, rfl, rfl, rfl, rfl, rfl⟩
  case font =>
    intro a ha
    rw [readMem_resetCore_other (by omega), resetByte_of_lt ha]
  case zero =>
    rintro a ⟨hfont, himage⟩
    rw [readMem_resetCore_other himage, resetByte_of_le hfont]

/-! ### The stopped program -/

theorem exec_jp (nnn : Addr12) (s : State) : exec (.jp nnn) s = .next (s.setPc (immTarget nnn)) := rfl

/-- An address an instruction is fetched from fits the address field of a jump. -/
theorem immTarget_setWidth_of_fetchable (h : s.fetchable = true) : immTarget (s.pc.setWidth 12) = s.pc := by
  have hpc := State.fetchable_iff.1 h
  apply BitVec.eq_of_toNat_eq
  rw [immTarget_toNat, BitVec.toNat_setWidth, Nat.mod_eq_of_lt (by omega)]

/-- Settles O37: the jump writes PC back to the address it was fetched from, and the cycle writes nothing else. -/
theorem jumpToSelfSpins : Obligations.JumpToSelfSpins := by
  rintro s ⟨hfault, hfetch, hjump⟩ hev
  rw [step_of_ready ⟨hev, hfault, hfetch⟩, hjump, exec_jp, immTarget_setWidth_of_fetchable hfetch]
  rfl

end Sys2Proof.Machine
